-- ==== Sys2Proof/Word.lean ====
section
/-! DEFINITION. The words the block's registers and ports are made of (spec/00_scope.md R5, R6). -/

namespace Sys2Proof

/-- A packet byte or a histogram cell (spec/10_state.md R21, R42). -/
abbrev Byte := BitVec 8

/-- A counter, `CNT_W = 32` bits, or a command word (spec/10_state.md R33, spec/30_encoding.md R70). -/
abbrev Word := BitVec 32

/-- A timestamp in ticks, `TS_W = 64` bits (spec/00_scope.md R10). -/
abbrev Time := BitVec 64

/-- The write-data and read-data words of the command port (spec/00_scope.md R9, spec/30_encoding.md R70). -/
abbrev Data := BitVec 64

end Sys2Proof
end

