-- ==== Sys2Proof/Config.lean ====
section
/-! DEFINITION. The implementation parameters of spec/00_scope.md R5, each with the value the spec fixes for
this hardware. UNVERIFIED: the spec calls several of these values its own decision (log 9). -/

namespace Sys2Proof.Config

/-- `HIST_LEN`: cells per histogram. -/
def histLen : Nat := 7500

/-- `HIST_WEIGHT`: amount added to a cell per bucketed packet covering it. -/
def histWeight : Nat := 10

/-- `CELL_MAX`: saturation value of a cell. -/
def cellMax : Nat := 255

/-- `DECAY_DIV`: divisor in the decay step. -/
def decayDiv : Nat := 25

/-- `DECAY_ADD`: constant in the decay step. -/
def decayAdd : Nat := 3

/-- `EXP_HIGH`: footprint factor of a high-speed packet. -/
def expHigh : Nat := 1

/-- `EXP_FULL`: footprint factor of a full-speed packet. -/
def expFull : Nat := 5

/-- `EXP_LOW`: footprint factor of a low-speed or low-speed-prefixed packet. -/
def expLow : Nat := 40

/-- `TICK_HZ`: timestamp ticks per second (R10); no rule computes with it. -/
def tickHz : Nat := 60000000

/-- `FRAME_TICKS_HIGH`: ticks in one high-speed frame window, 125 µs. -/
def frameTicksHigh : Nat := 7500

/-- `FRAME_TICKS_FSLS`: ticks in one full- or low-speed frame, 1 ms. -/
def frameTicksFsls : Nat := 60000

/-- `PKT_MAX`: largest packet length in bytes a slot holds. -/
def pktMax : Nat := 2047

/-- `CRC5_POLY`: x^5+x^2+1 without the x^5 term. -/
def crc5Poly : BitVec 5 := 0x05#5

/-- `CRC16_POLY`: x^16+x^15+x^2+1 without the x^16 term. -/
def crc16Poly : BitVec 16 := 0x8005#16

/-- What a histogram cell that the memory does not list reads as: the reset contents (spec/10_state.md R46). -/
def blankCell : Byte := 0x00#8

end Sys2Proof.Config
end

