-- ==== Sys2Proof/Syntax.lean ====
section
/-! DEFINITION. The commands as syntax: one constructor of `Instr` per row of spec/opcode_table.json, and the raw
command the host issues. Enumerated fields that have reserved codes (`speed`, `etype`, `h`) stay bit fields here, and
`WellFormed` says which codes are legal. -/

namespace Sys2Proof

/-- A command as it stands on the port: a command word and a write-data word (spec/30_encoding.md R70). -/
structure Command where
  cw    : Word
  wdata : Data
  deriving DecidableEq, Repr

/-- The four packet slots, by the aliases of spec/10_state.md R20. -/
inductive SlotId where
  | spl  -- slot 0: split, SOF, invalid or extended-token packet
  | tok  -- slot 1: token packet
  | dat  -- slot 2: data packet
  | hsk  -- slot 3: handshake packet
  deriving DecidableEq, Repr

/-- The command errors (spec/30_encoding.md R87, spec/60_exceptions.md R252). -/
inductive CmdError where
  | illegalOp  -- 1, the opcode is none of the 53
  | reserved   -- 2, a must-be-zero bit is set or an enumerant is reserved
  | range      -- 3, an index or a packet length is out of range
  | phase      -- 4, the lifecycle phase forbids the command
  deriving DecidableEq, Repr

/-- The 53 commands of spec/30_encoding.md R72, in the table's order. Operands are the fields of `cw` (R71), in the
order they stand there, then those of `wdata` (R73) where the command reads any. -/
inductive Instr where
  | nop
  | pktClr (k : SlotId)
  | pktSet (k : SlotId) (speed : BitVec 3) (ext : Bool) (time : Time)
  | pktApp (k : SlotId) (byte : Byte)
  | pktRb (k : SlotId) (off : BitVec 11)
  | pktLen (k : SlotId)
  | pktTime (k : SlotId)
  | pktAttr (k : SlotId)
  | pktEmpty (k : SlotId)
  | pktPid (k : SlotId)
  | pktSubpid (k : SlotId)
  | pktType (k : SlotId)
  | pktAddr (k : SlotId)
  | pktEndp (k : SlotId)
  | pktFrame (k : SlotId)
  | pktHubaddr (k : SlotId)
  | pktHubport (k : SlotId)
  | pktSc (k : SlotId)
  | pktS (k : SlotId)
  | pktE (k : SlotId)
  | pktEt (k : SlotId)
  | pktCrc5 (k : SlotId)
  | pktCrc5c (k : SlotId)
  | pktCrc16 (k : SlotId)
  | pktCrc16c (k : SlotId)
  | pktErrs (k : SlotId)
  | pktValid (k : SlotId)
  | crc5 (k : SlotId) (off : BitVec 11) (n : BitVec 11)
  | crc16 (k : SlotId) (off : BitVec 11) (n : BitVec 11)
  | elmSet (etype : BitVec 4) (estruct : BitVec 3) (time : Time)
  | elmType
  | elmTime
  | elmEmpty
  | elmAddr
  | elmEndp
  | elmSpeed
  | elmErrs
  | elmValid
  | init
  | final
  | elmPush
  | decay
  | clear
  | histRd (h : BitVec 2) (idx : BitVec 16)
  | histWr (h : BitVec 2) (idx : BitVec 16) (v : Byte)
  | histClr
  | cntRd (c : BitVec 3)
  | cntWr (c : BitVec 3) (v : Word)
  | devRd (a : BitVec 7)
  | devWr (a : BitVec 7) (seen : Bool) (count : Word)
  | devLast
  | statRd
  | orgRd
  deriving DecidableEq, Repr

end Sys2Proof
end

