-- ==== Sys2Proof/WellFormed.lean ====
section
/-! DEFINITION. Which terms of `Instr` are commands: those whose enumerated fields hold no reserved code
(spec/30_encoding.md R75). Every other field has no reserved value. -/

namespace Sys2Proof

/-- Speed codes 5 to 7 are reserved (spec/30_encoding.md R81). -/
def speedCodeLegal (speed : BitVec 3) : Bool := decide (speed.toNat < 5)

/-- Element type codes 11 to 15 are reserved (spec/30_encoding.md R82). -/
def etypeCodeLegal (etype : BitVec 4) : Bool := decide (etype.toNat < 11)

/-- Histogram select 3 is reserved (spec/30_encoding.md R83). -/
def histCodeLegal (h : BitVec 2) : Bool := decide (h.toNat < 3)

/-- No enumerated field holds a reserved code (spec/30_encoding.md R75). -/
def Instr.wellFormed : Instr → Bool
  | .nop => true
  | .pktClr _ => true
  | .pktSet _ speed _ _ => speedCodeLegal speed
  | .pktApp _ _ => true
  | .pktRb _ _ => true
  | .pktLen _ => true
  | .pktTime _ => true
  | .pktAttr _ => true
  | .pktEmpty _ => true
  | .pktPid _ => true
  | .pktSubpid _ => true
  | .pktType _ => true
  | .pktAddr _ => true
  | .pktEndp _ => true
  | .pktFrame _ => true
  | .pktHubaddr _ => true
  | .pktHubport _ => true
  | .pktSc _ => true
  | .pktS _ => true
  | .pktE _ => true
  | .pktEt _ => true
  | .pktCrc5 _ => true
  | .pktCrc5c _ => true
  | .pktCrc16 _ => true
  | .pktCrc16c _ => true
  | .pktErrs _ => true
  | .pktValid _ => true
  | .crc5 _ _ _ => true
  | .crc16 _ _ _ => true
  | .elmSet etype _ _ => etypeCodeLegal etype
  | .elmType => true
  | .elmTime => true
  | .elmEmpty => true
  | .elmAddr => true
  | .elmEndp => true
  | .elmSpeed => true
  | .elmErrs => true
  | .elmValid => true
  | .init => true
  | .final => true
  | .elmPush => true
  | .decay => true
  | .clear => true
  | .histRd h _ => histCodeLegal h
  | .histWr h _ _ => histCodeLegal h
  | .histClr => true
  | .cntRd _ => true
  | .cntWr _ _ => true
  | .devRd _ => true
  | .devWr _ _ _ => true
  | .devLast => true
  | .statRd => true
  | .orgRd => true

end Sys2Proof
end

