-- ==== Sys2Proof/Decode.lean ====
section
/-! DEFINITION. Decoding and encoding of commands, from spec/30_encoding.md R70 to R78. `decode` is total on every
(`cw`, `wdata`) pair and names the command error of a word it refuses; `encode` is written from the same tables. The
spec's command has no byte order (spec/20_memory.md R52), so both work on the two words of a command. -/

namespace Sys2Proof

/-! ### Fields of a command (R71) and of its write data (R73) -/

/-- `op = cw[31:24]` (R70). -/
def Command.op (c : Command) : BitVec 8 := c.cw.extractLsb' 24 8

/-- The slot a 2-bit slot number names (spec/10_state.md R20). -/
def SlotId.ofBits (b : BitVec 2) : SlotId :=
  if b = 0#2 then .spl else if b = 1#2 then .tok else if b = 2#2 then .dat else .hsk

/-- A slot's number. -/
def SlotId.bits : SlotId → BitVec 2
  | .spl => 0#2
  | .tok => 1#2
  | .dat => 2#2
  | .hsk => 3#2

/-- `s = cw[23:22]`. -/
def Command.slotField (c : Command) : SlotId := SlotId.ofBits (c.cw.extractLsb' 22 2)

/-- `speed = cw[21:19]`. -/
def Command.speedField (c : Command) : BitVec 3 := c.cw.extractLsb' 19 3

/-- `ext = cw[18]`. -/
def Command.extField (c : Command) : Bool := c.cw.getLsbD 18

/-- `byte = cw[7:0]`. -/
def Command.byteField (c : Command) : Byte := c.cw.extractLsb' 0 8

/-- `off = cw[21:11]`. -/
def Command.offField (c : Command) : BitVec 11 := c.cw.extractLsb' 11 11

/-- `n = cw[10:0]`. -/
def Command.nField (c : Command) : BitVec 11 := c.cw.extractLsb' 0 11

/-- `etype = cw[23:20]`. -/
def Command.etypeField (c : Command) : BitVec 4 := c.cw.extractLsb' 20 4

/-- `estruct = cw[19:17]`. -/
def Command.estructField (c : Command) : BitVec 3 := c.cw.extractLsb' 17 3

/-- `h = cw[23:22]`. -/
def Command.histField (c : Command) : BitVec 2 := c.cw.extractLsb' 22 2

/-- `idx = cw[15:0]`. -/
def Command.idxField (c : Command) : BitVec 16 := c.cw.extractLsb' 0 16

/-- `k = cw[2:0]`. -/
def Command.cntField (c : Command) : BitVec 3 := c.cw.extractLsb' 0 3

/-- `a = cw[6:0]`. -/
def Command.devField (c : Command) : BitVec 7 := c.cw.extractLsb' 0 7

/-- `wdata[63:0]`, a time in ticks. -/
def Command.timeData (c : Command) : Time := c.wdata

/-- `wdata[7:0]`, a cell value. -/
def Command.cellData (c : Command) : Byte := c.wdata.extractLsb' 0 8

/-- `wdata[31:0]`, a counter value. -/
def Command.countData (c : Command) : Word := c.wdata.extractLsb' 0 32

/-- `wdata[32]`, a seen flag. -/
def Command.seenData (c : Command) : Bool := c.wdata.getLsbD 32

/-! ### Formats (R71) and the opcode map (R72) -/

/-- The ten formats of R71. -/
inductive Format where
  | n | s | p | a | o | r | e | h | k | d
  deriving DecidableEq, Repr

/-- The mask of fixed bits of a format (R71, last column): its opcode and its must-be-zero bits. -/
def Format.mask : Format → Word
  | .n => 0xFFFFFFFF#32
  | .s => 0xFF3FFFFF#32
  | .p => 0xFF03FFFF#32
  | .a => 0xFF3FFF00#32
  | .o => 0xFF0007FF#32
  | .r => 0xFF000000#32
  | .e => 0xFF01FFFF#32
  | .h => 0xFF3F0000#32
  | .k => 0xFFFFFFF8#32
  | .d => 0xFFFFFF80#32

/-- One row of the opcode map: mnemonic, opcode, format, and the command its fields spell. -/
structure OpRow where
  mnemonic : String
  op       : BitVec 8
  fmt      : Format
  read     : Command → Instr

/-- Opcode 0x00. -/
def nopRows : List OpRow := [
  ⟨"NOP", 0x00#8, .n, fun _ => .nop⟩]

/-- Opcodes 0x10 to 0x16. -/
def packetLoadRows : List OpRow := [
  ⟨"PKT.CLR", 0x10#8, .s, fun c => .pktClr c.slotField⟩,
  ⟨"PKT.SET", 0x11#8, .p, fun c => .pktSet c.slotField c.speedField c.extField c.timeData⟩,
  ⟨"PKT.APP", 0x12#8, .a, fun c => .pktApp c.slotField c.byteField⟩,
  ⟨"PKT.RB", 0x13#8, .o, fun c => .pktRb c.slotField c.offField⟩,
  ⟨"PKT.LEN", 0x14#8, .s, fun c => .pktLen c.slotField⟩,
  ⟨"PKT.TIME", 0x15#8, .s, fun c => .pktTime c.slotField⟩,
  ⟨"PKT.ATTR", 0x16#8, .s, fun c => .pktAttr c.slotField⟩]

/-- Opcodes 0x20 to 0x2F. -/
def packetFieldRows : List OpRow := [
  ⟨"PKT.EMPTY", 0x20#8, .s, fun c => .pktEmpty c.slotField⟩,
  ⟨"PKT.PID", 0x21#8, .s, fun c => .pktPid c.slotField⟩,
  ⟨"PKT.SUBPID", 0x22#8, .s, fun c => .pktSubpid c.slotField⟩,
  ⟨"PKT.TYPE", 0x23#8, .s, fun c => .pktType c.slotField⟩,
  ⟨"PKT.ADDR", 0x24#8, .s, fun c => .pktAddr c.slotField⟩,
  ⟨"PKT.ENDP", 0x25#8, .s, fun c => .pktEndp c.slotField⟩,
  ⟨"PKT.FRAME", 0x26#8, .s, fun c => .pktFrame c.slotField⟩,
  ⟨"PKT.HUBADDR", 0x27#8, .s, fun c => .pktHubaddr c.slotField⟩,
  ⟨"PKT.HUBPORT", 0x28#8, .s, fun c => .pktHubport c.slotField⟩,
  ⟨"PKT.SC", 0x29#8, .s, fun c => .pktSc c.slotField⟩,
  ⟨"PKT.S", 0x2A#8, .s, fun c => .pktS c.slotField⟩,
  ⟨"PKT.E", 0x2B#8, .s, fun c => .pktE c.slotField⟩,
  ⟨"PKT.ET", 0x2C#8, .s, fun c => .pktEt c.slotField⟩,
  ⟨"PKT.CRC5", 0x2D#8, .s, fun c => .pktCrc5 c.slotField⟩,
  ⟨"PKT.CRC5C", 0x2E#8, .s, fun c => .pktCrc5c c.slotField⟩,
  ⟨"PKT.CRC16", 0x2F#8, .s, fun c => .pktCrc16 c.slotField⟩]

/-- Opcodes 0x30 to 0x32. -/
def packetCheckRows : List OpRow := [
  ⟨"PKT.CRC16C", 0x30#8, .s, fun c => .pktCrc16c c.slotField⟩,
  ⟨"PKT.ERRS", 0x31#8, .s, fun c => .pktErrs c.slotField⟩,
  ⟨"PKT.VALID", 0x32#8, .s, fun c => .pktValid c.slotField⟩]

/-- Opcodes 0x40 and 0x41. -/
def crcRows : List OpRow := [
  ⟨"CRC5", 0x40#8, .r, fun c => .crc5 c.slotField c.offField c.nField⟩,
  ⟨"CRC16", 0x41#8, .r, fun c => .crc16 c.slotField c.offField c.nField⟩]

/-- Opcodes 0x50 to 0x58. -/
def elementRows : List OpRow := [
  ⟨"ELM.SET", 0x50#8, .e, fun c => .elmSet c.etypeField c.estructField c.timeData⟩,
  ⟨"ELM.TYPE", 0x51#8, .n, fun _ => .elmType⟩,
  ⟨"ELM.TIME", 0x52#8, .n, fun _ => .elmTime⟩,
  ⟨"ELM.EMPTY", 0x53#8, .n, fun _ => .elmEmpty⟩,
  ⟨"ELM.ADDR", 0x54#8, .n, fun _ => .elmAddr⟩,
  ⟨"ELM.ENDP", 0x55#8, .n, fun _ => .elmEndp⟩,
  ⟨"ELM.SPEED", 0x56#8, .n, fun _ => .elmSpeed⟩,
  ⟨"ELM.ERRS", 0x57#8, .n, fun _ => .elmErrs⟩,
  ⟨"ELM.VALID", 0x58#8, .n, fun _ => .elmValid⟩]

/-- Opcodes 0x60 to 0x64. -/
def sessionRows : List OpRow := [
  ⟨"INIT", 0x60#8, .n, fun _ => .init⟩,
  ⟨"FINAL", 0x61#8, .n, fun _ => .final⟩,
  ⟨"ELM.PUSH", 0x62#8, .n, fun _ => .elmPush⟩,
  ⟨"DECAY", 0x63#8, .n, fun _ => .decay⟩,
  ⟨"CLEAR", 0x64#8, .n, fun _ => .clear⟩]

/-- Opcodes 0x70 to 0x79. -/
def transferRows : List OpRow := [
  ⟨"HIST.RD", 0x70#8, .h, fun c => .histRd c.histField c.idxField⟩,
  ⟨"HIST.WR", 0x71#8, .h, fun c => .histWr c.histField c.idxField c.cellData⟩,
  ⟨"HIST.CLR", 0x72#8, .n, fun _ => .histClr⟩,
  ⟨"CNT.RD", 0x73#8, .k, fun c => .cntRd c.cntField⟩,
  ⟨"CNT.WR", 0x74#8, .k, fun c => .cntWr c.cntField c.countData⟩,
  ⟨"DEV.RD", 0x75#8, .d, fun c => .devRd c.devField⟩,
  ⟨"DEV.WR", 0x76#8, .d, fun c => .devWr c.devField c.seenData c.countData⟩,
  ⟨"DEV.LAST", 0x77#8, .n, fun _ => .devLast⟩,
  ⟨"STAT.RD", 0x78#8, .n, fun _ => .statRd⟩,
  ⟨"ORG.RD", 0x79#8, .n, fun _ => .orgRd⟩]

/-- The opcode map: 53 rows (spec/30_encoding.md R72). -/
def opTable : List OpRow :=
  nopRows ++ packetLoadRows ++ packetFieldRows ++ packetCheckRows ++ crcRows ++ elementRows ++ sessionRows ++ transferRows

/-! ### Command errors -/

/-- The codes of `cerr` (spec/30_encoding.md R87). -/
def CmdError.code : CmdError → BitVec 3
  | .illegalOp => 1#3
  | .reserved => 2#3
  | .range => 3#3
  | .phase => 4#3

/-! ### The decoder -/

/-- The row of the opcode map that a command's opcode selects (R70: the opcode alone selects it). -/
def rowOf (c : Command) : Option OpRow := opTable.find? fun r => r.op == c.op

/-- The command word is an instance of the row: `(w and M) = (OP << 24)` (R71). -/
def OpRow.fits (r : OpRow) (c : Command) : Bool := c.cw &&& r.fmt.mask == r.op.setWidth 32 <<< 24

/-- Decoding, with the priority of spec/60_exceptions.md R253: an unassigned opcode is `ILLEGAL_OP` whatever else the
word holds (R76), then a set must-be-zero bit or a reserved enumerant is `RESERVED` (R75). -/
def decode (c : Command) : Except CmdError Instr :=
  match rowOf c with
  | none => .error .illegalOp
  | some r =>
    if r.fits c && (r.read c).wellFormed then .ok (r.read c) else .error .reserved

/-! ### The encoder -/

/-- The field `v` at the bits of a command word from bit `lo` up. -/
def place {w : Nat} (v : BitVec w) (lo : Nat) : Word := v.setWidth 32 <<< lo

/-- Format N. -/
def packN (op : BitVec 8) : Word := place op 24

/-- Format S. -/
def packS (op : BitVec 8) (k : SlotId) : Word := place op 24 ||| place k.bits 22

/-- Format P. -/
def packP (op : BitVec 8) (k : SlotId) (speed : BitVec 3) (ext : Bool) : Word :=
  place op 24 ||| place k.bits 22 ||| place speed 19 ||| place (BitVec.ofBool ext) 18

/-- Format A. -/
def packA (op : BitVec 8) (k : SlotId) (byte : Byte) : Word := place op 24 ||| place k.bits 22 ||| place byte 0

/-- Format O. -/
def packO (op : BitVec 8) (k : SlotId) (off : BitVec 11) : Word := place op 24 ||| place k.bits 22 ||| place off 11

/-- Format R. -/
def packR (op : BitVec 8) (k : SlotId) (off n : BitVec 11) : Word :=
  place op 24 ||| place k.bits 22 ||| place off 11 ||| place n 0

/-- Format E. -/
def packE (op : BitVec 8) (etype : BitVec 4) (estruct : BitVec 3) : Word :=
  place op 24 ||| place etype 20 ||| place estruct 17

/-- Format H. -/
def packH (op : BitVec 8) (h : BitVec 2) (idx : BitVec 16) : Word := place op 24 ||| place h 22 ||| place idx 0

/-- Format K. -/
def packK (op : BitVec 8) (c : BitVec 3) : Word := place op 24 ||| place c 0

/-- Format D. -/
def packD (op : BitVec 8) (a : BitVec 7) : Word := place op 24 ||| place a 0

/-- The write data of `DEV.WR`: the seen flag at bit 32, the count below it (R73). -/
def packEntry (seen : Bool) (count : Word) : Data := (BitVec.ofBool seen).setWidth 64 <<< 32 ||| count.setWidth 64

/-- The command word and write data of a command (R71 to R73). The bits of `wdata` that the command ignores are 0. -/
def encode : Instr → Command
  | .nop => ⟨packN 0x00#8, 0#64⟩
  | .pktClr k => ⟨packS 0x10#8 k, 0#64⟩
  | .pktSet k speed ext time => ⟨packP 0x11#8 k speed ext, time⟩
  | .pktApp k byte => ⟨packA 0x12#8 k byte, 0#64⟩
  | .pktRb k off => ⟨packO 0x13#8 k off, 0#64⟩
  | .pktLen k => ⟨packS 0x14#8 k, 0#64⟩
  | .pktTime k => ⟨packS 0x15#8 k, 0#64⟩
  | .pktAttr k => ⟨packS 0x16#8 k, 0#64⟩
  | .pktEmpty k => ⟨packS 0x20#8 k, 0#64⟩
  | .pktPid k => ⟨packS 0x21#8 k, 0#64⟩
  | .pktSubpid k => ⟨packS 0x22#8 k, 0#64⟩
  | .pktType k => ⟨packS 0x23#8 k, 0#64⟩
  | .pktAddr k => ⟨packS 0x24#8 k, 0#64⟩
  | .pktEndp k => ⟨packS 0x25#8 k, 0#64⟩
  | .pktFrame k => ⟨packS 0x26#8 k, 0#64⟩
  | .pktHubaddr k => ⟨packS 0x27#8 k, 0#64⟩
  | .pktHubport k => ⟨packS 0x28#8 k, 0#64⟩
  | .pktSc k => ⟨packS 0x29#8 k, 0#64⟩
  | .pktS k => ⟨packS 0x2A#8 k, 0#64⟩
  | .pktE k => ⟨packS 0x2B#8 k, 0#64⟩
  | .pktEt k => ⟨packS 0x2C#8 k, 0#64⟩
  | .pktCrc5 k => ⟨packS 0x2D#8 k, 0#64⟩
  | .pktCrc5c k => ⟨packS 0x2E#8 k, 0#64⟩
  | .pktCrc16 k => ⟨packS 0x2F#8 k, 0#64⟩
  | .pktCrc16c k => ⟨packS 0x30#8 k, 0#64⟩
  | .pktErrs k => ⟨packS 0x31#8 k, 0#64⟩
  | .pktValid k => ⟨packS 0x32#8 k, 0#64⟩
  | .crc5 k off n => ⟨packR 0x40#8 k off n, 0#64⟩
  | .crc16 k off n => ⟨packR 0x41#8 k off n, 0#64⟩
  | .elmSet etype estruct time => ⟨packE 0x50#8 etype estruct, time⟩
  | .elmType => ⟨packN 0x51#8, 0#64⟩
  | .elmTime => ⟨packN 0x52#8, 0#64⟩
  | .elmEmpty => ⟨packN 0x53#8, 0#64⟩
  | .elmAddr => ⟨packN 0x54#8, 0#64⟩
  | .elmEndp => ⟨packN 0x55#8, 0#64⟩
  | .elmSpeed => ⟨packN 0x56#8, 0#64⟩
  | .elmErrs => ⟨packN 0x57#8, 0#64⟩
  | .elmValid => ⟨packN 0x58#8, 0#64⟩
  | .init => ⟨packN 0x60#8, 0#64⟩
  | .final => ⟨packN 0x61#8, 0#64⟩
  | .elmPush => ⟨packN 0x62#8, 0#64⟩
  | .decay => ⟨packN 0x63#8, 0#64⟩
  | .clear => ⟨packN 0x64#8, 0#64⟩
  | .histRd h idx => ⟨packH 0x70#8 h idx, 0#64⟩
  | .histWr h idx v => ⟨packH 0x71#8 h idx, v.setWidth 64⟩
  | .histClr => ⟨packN 0x72#8, 0#64⟩
  | .cntRd c => ⟨packK 0x73#8 c, 0#64⟩
  | .cntWr c v => ⟨packK 0x74#8 c, v.setWidth 64⟩
  | .devRd a => ⟨packD 0x75#8 a, 0#64⟩
  | .devWr a seen count => ⟨packD 0x76#8 a, packEntry seen count⟩
  | .devLast => ⟨packN 0x77#8, 0#64⟩
  | .statRd => ⟨packN 0x78#8, 0#64⟩
  | .orgRd => ⟨packN 0x79#8, 0#64⟩

/-! ### Words of the opcode table -/

/-- The command whose bits are `w`, bit 0 the least significant bit of `cw`, with every bit above `nbits` 0. The
opcode table gives a row the 32 bits of `cw`; bits 95..32 of a wider word are `wdata`. DESIGN CHOICE (log 2): the
spec numbers the bits of the two words apart. -/
def commandOfTableWord (nbits w : Nat) : Command :=
  ⟨BitVec.ofNat 32 (w % 2 ^ nbits), BitVec.ofNat 64 (w % 2 ^ nbits / 2 ^ 32)⟩

/-- What the decoder reads from a table word; none where it refuses the word. -/
def decodeTableWord (nbits w : Nat) : Option Instr :=
  match decode (commandOfTableWord nbits w) with
  | .ok i => some i
  | .error _ => none

end Sys2Proof
end

