-- ==== Sys2Proof/Machine/State.lean ====
section
/-! DEFINITION. The state of the block as plain data: everything spec/10_state.md names, the host events not yet
taken, and the outputs given so far; and its value after hardware reset (R46, spec/70_reset_and_hazards.md R270). -/

namespace Sys2Proof.Machine

/-- A packet's link speed (spec/10_state.md R23, spec/30_encoding.md R81). Codes 5 to 7 can never be stored, so they
are no values of this type. -/
inductive Speed where
  | unknown      -- code 0
  | low          -- code 1
  | full         -- code 2
  | high         -- code 3
  | lowPrefixed  -- code 4
  deriving DecidableEq, Repr

/-- An element's type tag (spec/10_state.md R25, spec/30_encoding.md R82). Codes 11 to 15 can never be stored. -/
inductive EType where
  | invalidPacket       -- code 0
  | startOfFrame        -- code 1
  | transaction         -- code 2
  | splitTransaction    -- code 3
  | lpmTransaction      -- code 4
  | reset               -- code 5
  | suspended           -- code 6
  | keepAlive           -- code 7
  | powerChange         -- code 8
  | highSpeedHandshake  -- code 9
  | trigger             -- code 10
  deriving DecidableEq, Repr

/-- The lifecycle phase (spec/10_state.md R28, spec/30_encoding.md R87). -/
inductive Phase where
  | idle  -- code 0, Initialize not yet called
  | run   -- code 1, between Initialize and Finalize
  | done  -- code 2, Finalize called
  deriving DecidableEq, Repr

/-- The three histograms (spec/10_state.md R42, spec/30_encoding.md R83). -/
inductive HistSel where
  | inn  -- code 0, IN
  | out  -- code 1, OUT
  | nak  -- code 2, NAK
  deriving DecidableEq, Repr

/-- One packet slot (spec/10_state.md R20 to R24). Its `len` is the length of `buf`: a byte at or past `len` is no
state (R21, spec/93_implementation_defined.md U15). -/
structure Packet where
  buf   : List Byte
  time  : Time
  speed : Speed
  ext   : Bool
  deriving DecidableEq, Repr

/-- The four slots (spec/10_state.md R20). -/
structure Slots where
  spl : Packet
  tok : Packet
  dat : Packet
  hsk : Packet
  deriving DecidableEq, Repr

/-- One histogram: its cells as (index, value) pairs, indices strictly rising, no pair that holds what an unlisted
cell reads as (`Config.blankCell`). -/
abbrev Memory := List Host.Cell

/-- The response to one command (spec/00_scope.md R9). -/
structure Response where
  rdata : Data
  unk   : Bool
  cerr  : BitVec 3
  fwd   : Bool
  deriving DecidableEq, Repr

/-- One event of the forward port: the element's header and its constituent packets (spec/43_sink_chain.md R194). -/
structure ForwardEvent where
  etype   : EType
  etime   : Time
  estruct : BitVec 3
  packets : List Packet
  deriving DecidableEq, Repr

/-- What the host can do to the block (spec/00_scope.md R13): issue a command, or assert and release hardware reset. -/
inductive HostEvent where
  | command (c : Command)
  | reset
  deriving DecidableEq, Repr

/-- The state of the block. The last three fields are its inputs and outputs (spec/10_state.md R45; log 1, log 3). -/
structure State where
  slots     : Slots                    -- the packet slots (R20)
  etype     : EType                    -- element header: type tag (R25)
  etime     : Time                     -- element header: timestamp (R25)
  estruct   : BitVec 3                 -- element header: structural error bits (R25)
  phase     : Phase                    -- lifecycle phase (R28)
  origin    : Time                     -- time origin (R29)
  hs        : Bool                     -- speed context (R30)
  lastDev   : BitVec 7                 -- most recently touched device address (R31)
  cnt       : Vector Word 8            -- global counters (R32)
  devcnt    : Vector Word 128          -- per-device counters (R37)
  devseen   : Vector Bool 128          -- device seen flags (R38)
  histIn    : Memory                   -- histogram IN (R42)
  histOut   : Memory                   -- histogram OUT (R42)
  histNak   : Memory                   -- histogram NAK (R42)
  inputs    : List HostEvent           -- host events not yet taken, first to be taken first (R13)
  responses : List Response            -- responses given so far, oldest first (R9)
  trace     : List ForwardEvent        -- forward events emitted so far, oldest first (R194)
  deriving DecidableEq, Repr

/-- The reasons a step could stop with a fault: none. The block raises no exception (spec/60_exceptions.md R250), every
command has a defined step (spec/00_scope.md R13), and a command error is a next state (R251). -/
inductive Fault where
  deriving DecidableEq, Repr

/-- The reasons a step could be refused. -/
inductive Refusal where
  /-- Raised only by an arm of `exec` whose instruction has no meaning yet; no arm is in that case. Safe: the machine
  stops where the hardware goes on. -/
  | notModelled (mnemonic : String)
  deriving DecidableEq, Repr

/-- An empty slot as hardware reset and `PKT.CLR` leave it (spec/10_state.md R46, spec/40_packet.md R112). -/
def Packet.cleared : Packet := ⟨[], 0#64, .unknown, false⟩

/-- The state right after hardware reset (spec/10_state.md R46): every slot empty, every register zero, no cell listed,
no host event waiting, nothing emitted. -/
def State.reset : State where
  slots := ⟨Packet.cleared, Packet.cleared, Packet.cleared, Packet.cleared⟩
  etype := .invalidPacket
  etime := 0#64
  estruct := 0#3
  phase := .idle
  origin := 0#64
  hs := false
  lastDev := 0#7
  cnt := Vector.replicate 8 0#32
  devcnt := Vector.replicate 128 0#32
  devseen := Vector.replicate 128 false
  histIn := []
  histOut := []
  histNak := []
  inputs := []
  responses := []
  trace := []

end Sys2Proof.Machine
end

