-- ==== Sys2Proof/Machine/Ops.lean ====
section
/-! DEFINITION. The named operations over the block's storage and ports, which every meaning is written with: histogram
memory, counters, device table, slots, the response port, the forward port, the command error (the block's one
exception-like outcome), the zeroing function and hardware reset. -/

namespace Sys2Proof.Machine

/-! ### Histogram memory (spec/10_state.md R42, spec/20_memory.md R57, R64) -/

/-- The canonical form of a histogram: indices strictly rising, no cell listed that holds the blank value. -/
abbrev Memory.wf (m : Memory) : Prop :=
  m.Pairwise (fun x y => x.1 < y.1) ∧ ∀ x ∈ m, x.2 ≠ Config.blankCell

/-- Every listed cell lies inside the histogram (R57). -/
abbrev Memory.inBounds (m : Memory) : Prop := ∀ x ∈ m, x.1 < Config.histLen

/-- The value of cell `i`. -/
def Memory.read : Memory → Nat → Byte
  | [], _ => Config.blankCell
  | (a, b) :: rest, i => if a = i then b else Memory.read rest i

/-- List cell `i` with value `v` before `m`, or leave it unlisted where `v` is the blank value. -/
def Memory.cons (i : Nat) (v : Byte) (m : Memory) : Memory :=
  if v = Config.blankCell then m else (i, v) :: m

/-- Replace the value of cell `i` by `v` (R64). -/
def Memory.write : Memory → Nat → Byte → Memory
  | [], i, v => Memory.cons i v []
  | (a, b) :: rest, i, v =>
    if i < a then Memory.cons i v ((a, b) :: rest)
    else if i = a then Memory.cons i v rest
    else (a, b) :: Memory.write rest i v

/-- Apply `f` to every cell; `f` keeps the blank value, so unlisted cells stay unlisted. -/
def Memory.mapCells (f : Byte → Byte) (m : Memory) : Memory :=
  m.filterMap fun x => if f x.2 = Config.blankCell then none else some (x.1, f x.2)

/-- Apply `f` to each of the `n` cells from index `i` up, of a memory that lists no cell below `i`. -/
def Memory.paintFrom (f : Byte → Byte) : Nat → Nat → Memory → Memory
  | _, 0, m => m
  | i, n + 1, [] => Memory.cons i (f Config.blankCell) (Memory.paintFrom f (i + 1) n [])
  | i, n + 1, (a, b) :: rest =>
    if a = i then Memory.cons i (f b) (Memory.paintFrom f (i + 1) n rest)
    else Memory.cons i (f Config.blankCell) (Memory.paintFrom f (i + 1) n ((a, b) :: rest))

/-- Apply `f` once to each cell `j` with `lo ≤ j < hi` (the loop of spec/44_frame_decomposer.md R210, R213). -/
def Memory.paint (f : Byte → Byte) (lo hi : Nat) (m : Memory) : Memory :=
  m.filter (fun x => x.1 < lo) ++ Memory.paintFrom f lo (hi - lo) (m.filter fun x => lo ≤ x.1)

/-- The histogram a selector names. -/
def State.hist (s : State) : HistSel → Memory
  | .inn => s.histIn
  | .out => s.histOut
  | .nak => s.histNak

/-- Replace one histogram. -/
def State.setHist (s : State) (h : HistSel) (m : Memory) : State :=
  match h with
  | .inn => { s with histIn := m }
  | .out => { s with histOut := m }
  | .nak => { s with histNak := m }

/-- Apply one function to all three histograms. -/
def State.mapHists (s : State) (f : Memory → Memory) : State :=
  { s with histIn := f s.histIn, histOut := f s.histOut, histNak := f s.histNak }

/-! ### Counters and device table (spec/10_state.md R32, R33, R37 to R39) -/

/-- Counter `c`. -/
def State.cntAt (s : State) (c : BitVec 3) : Word := s.cnt[c.toNat]

/-- Write counter `c`. -/
def State.setCnt (s : State) (c : BitVec 3) (v : Word) : State := { s with cnt := s.cnt.set c.toNat v }

/-- Count one event in counter `c`, modulo 2^32 (R33). -/
def State.incCnt (s : State) (c : BitVec 3) : State := s.setCnt c (s.cntAt c + 1#32)

/-- Count one event in counter `c` where the condition holds. -/
def State.incCntIf (s : State) (b : Bool) (c : BitVec 3) : State := if b then s.incCnt c else s

/-- The count of device-table entry `a`. -/
def State.devcntAt (s : State) (a : BitVec 7) : Word := s.devcnt[a.toNat]

/-- The seen flag of device-table entry `a`. -/
def State.devseenAt (s : State) (a : BitVec 7) : Bool := s.devseen[a.toNat]

/-- Write both parts of device-table entry `a` (spec/45_state_transfer.md R236). -/
def State.setDev (s : State) (a : BitVec 7) (seen : Bool) (count : Word) : State :=
  { s with devcnt := s.devcnt.set a.toNat count, devseen := s.devseen.set a.toNat seen }

/-! ### Slots (spec/10_state.md R20) -/

/-- The packet in slot `k`. -/
def State.slot (s : State) : SlotId → Packet
  | .spl => s.slots.spl
  | .tok => s.slots.tok
  | .dat => s.slots.dat
  | .hsk => s.slots.hsk

/-- Replace the packet in slot `k`. -/
def State.setSlot (s : State) (k : SlotId) (p : Packet) : State :=
  match k with
  | .spl => { s with slots := { s.slots with spl := p } }
  | .tok => { s with slots := { s.slots with tok := p } }
  | .dat => { s with slots := { s.slots with dat := p } }
  | .hsk => { s with slots := { s.slots with hsk := p } }

/-! ### The response port (spec/00_scope.md R8, R9) -/

/-- Give one response. -/
def State.answer (s : State) (r : Response) : State := { s with responses := s.responses ++ [r] }

/-- The response of a command whose rule has no `respond` (R8). -/
def State.ack (s : State) : State := s.answer ⟨0#64, false, 0#3, false⟩

/-- `respond(v)`: `rdata = zext_64(v)` (R8). -/
def State.respond (s : State) {w : Nat} (v : BitVec w) : State := s.answer ⟨v.setWidth 64, false, 0#3, false⟩

/-- `respond` of a one-bit answer. -/
def State.respondBool (s : State) (b : Bool) : State := s.respond (BitVec.ofBool b)

/-- `respond_unknown` (R8, R9). -/
def State.respondUnknown (s : State) : State := s.answer ⟨0#64, true, 0#3, false⟩

/-- `respond` a value that may be `Unknown` (R8). -/
def State.respondOption (s : State) {w : Nat} : Option (BitVec w) → State
  | some v => s.respond v
  | none => s.respondUnknown

/-! ### The command error (spec/60_exceptions.md R251): the one exception-like outcome -/

/-- `raise CmdError(code)`: the state stays as it was, nothing is forwarded, the response carries the code (R251). -/
def State.cmdError (s : State) (e : CmdError) : State := s.answer ⟨0#64, false, e.code, false⟩

/-! ### Zeroing and reset -/

/-- `zero_all()` (spec/44_frame_decomposer.md R218): the accumulator's registers and every cell become zero; the phase,
the slots and the element header stay. -/
def State.zeroAll (s : State) : State :=
  { s with
    origin := 0#64, hs := false, lastDev := 0#7,
    cnt := Vector.replicate 8 0#32,
    devcnt := Vector.replicate 128 0#32, devseen := Vector.replicate 128 false,
    histIn := [], histOut := [], histNak := [] }

/-- Hardware reset (spec/70_reset_and_hazards.md R270): every piece of state takes its reset value and the trace starts
empty. The host events behind it stay to be taken. DESIGN CHOICE (log 4): the list of responses starts empty too. -/
def hardReset (rest : List HostEvent) : State := { State.reset with inputs := rest }

/-- With no host event waiting the block holds its state (spec/60_exceptions.md R256, R268). DESIGN CHOICE (log 1). -/
def idle (s : State) : State := s

/-- Take the host event at the head of the command port; `rest` is what waits behind it. -/
def State.take (s : State) (rest : List HostEvent) : State := { s with inputs := rest }

/-- Put a command at the head of the command port, to be taken by the very next step (log 2). -/
def State.issueNext (s : State) (c : Command) : State := { s with inputs := .command c :: s.inputs }

end Sys2Proof.Machine
end

