-- ==== Sys2Proof/Machine/CrcEngine.lean ====
section
/-! DEFINITION. The CRC engine's two functions in their serial form (spec/41_crc.md R150, R151) and the bit sequence
they run over (spec/00_scope.md R7). -/

namespace Sys2Proof.Machine

/-- The bits of a byte in bus order, bit 0 first (spec/20_memory.md R50). -/
def byteBits (b : Byte) : List Bool :=
  [b.getLsbD 0, b.getLsbD 1, b.getLsbD 2, b.getLsbD 3, b.getLsbD 4, b.getLsbD 5, b.getLsbD 6, b.getLsbD 7]

/-- `bitstream(buf, off, n)`: the `n` bits from byte `off` on, each byte low bit first (spec/00_scope.md R7). -/
def bitstream (buf : List Byte) (off n : Nat) : List Bool := ((buf.drop off).flatMap byteBits).take n

/-- One step of the CRC-5 register (spec/41_crc.md R150). -/
def crc5Step (r : BitVec 5) (b : Bool) : BitVec 5 :=
  if (b ^^ r.getLsbD 4) then (r <<< 1) ^^^ Config.crc5Poly else r <<< 1

/-- The CRC-5 register after a bit sequence, started all ones. -/
def crc5Register (bits : List Bool) : BitVec 5 := bits.foldl crc5Step 0x1F#5

/-- `crc5(bits)`: the register complemented and bit-reversed (spec/41_crc.md R150). -/
def crc5 (bits : List Bool) : BitVec 5 := (crc5Register bits ^^^ 0x1F#5).reverse

/-- One step of the CRC-16 register (spec/41_crc.md R151). -/
def crc16Step (r : BitVec 16) (b : Bool) : BitVec 16 :=
  if (b ^^ r.getLsbD 15) then (r <<< 1) ^^^ Config.crc16Poly else r <<< 1

/-- The CRC-16 register after a bit sequence, started all ones. -/
def crc16Register (bits : List Bool) : BitVec 16 := bits.foldl crc16Step 0xFFFF#16

/-- `crc16(bits)`: the register complemented and bit-reversed (spec/41_crc.md R151). -/
def crc16 (bits : List Bool) : BitVec 16 := (crc16Register bits ^^^ 0xFFFF#16).reverse

end Sys2Proof.Machine
end

