-- ==== Sys2Proof/Machine/Operands.lean ====
section
/-! DEFINITION. What commands read: the codes of the enumerations (spec/30_encoding.md R81 to R87), the packet kind and
the field accessors of a packet (spec/40_packet.md R110 to R135), and the constituents and derived accessors of the
element under work (spec/42_element.md R170 to R177). An accessor answers `none` for the spec's `Unknown`. -/

namespace Sys2Proof.Machine

/-! ### Codes -/

/-- Speed codes (R81). -/
def Speed.code : Speed → BitVec 3
  | .unknown => 0#3
  | .low => 1#3
  | .full => 2#3
  | .high => 3#3
  | .lowPrefixed => 4#3

/-- The speed a code names; none for the reserved codes 5 to 7 (R81). -/
def Speed.ofCode? (c : BitVec 3) : Option Speed :=
  match c.toNat with
  | 0 => some .unknown
  | 1 => some .low
  | 2 => some .full
  | 3 => some .high
  | 4 => some .lowPrefixed
  | _ => none

/-- Element type codes (R82). -/
def EType.code : EType → BitVec 4
  | .invalidPacket => 0#4
  | .startOfFrame => 1#4
  | .transaction => 2#4
  | .splitTransaction => 3#4
  | .lpmTransaction => 4#4
  | .reset => 5#4
  | .suspended => 6#4
  | .keepAlive => 7#4
  | .powerChange => 8#4
  | .highSpeedHandshake => 9#4
  | .trigger => 10#4

/-- The element type a code names; none for the reserved codes 11 to 15 (R82). -/
def EType.ofCode? (c : BitVec 4) : Option EType :=
  match c.toNat with
  | 0 => some .invalidPacket
  | 1 => some .startOfFrame
  | 2 => some .transaction
  | 3 => some .splitTransaction
  | 4 => some .lpmTransaction
  | 5 => some .reset
  | 6 => some .suspended
  | 7 => some .keepAlive
  | 8 => some .powerChange
  | 9 => some .highSpeedHandshake
  | 10 => some .trigger
  | _ => none

/-- Phase codes (R87). -/
def Phase.code : Phase → BitVec 2
  | .idle => 0#2
  | .run => 1#2
  | .done => 2#2

/-- The histogram a code names; none for the reserved code 3 (R83). -/
def HistSel.ofCode? (h : BitVec 2) : Option HistSel :=
  match h.toNat with
  | 0 => some .inn
  | 1 => some .out
  | 2 => some .nak
  | _ => none

/-- The index of the category counter that goes with a histogram (spec/44_frame_decomposer.md R208, first line). -/
def HistSel.counter : HistSel → BitVec 3
  | .inn => 0#3
  | .out => 1#3
  | .nak => 2#3

/-! ### Packet kind (spec/40_packet.md R110, R111, spec/30_encoding.md R97) -/

/-- The packet kinds of R110. -/
inductive Kind where
  | absent | sof | token | data | handshake | split | ext | ext2 | invalid
  deriving DecidableEq, Repr

/-- `len` of a packet (spec/10_state.md R21). -/
def Packet.len (p : Packet) : Nat := p.buf.length

/-- The slot is empty exactly when `len = 0` (spec/10_state.md R21). -/
def Packet.isEmpty (p : Packet) : Bool := p.len == 0

/-- `pidkind(b)` (R110, PID values of spec/30_encoding.md R90). -/
def pidKind (b : Byte) : Kind :=
  if b ∈ [0xE1#8, 0x69#8, 0x2D#8, 0xB4#8] then .token
  else if b = 0xA5#8 then .sof
  else if b ∈ [0xC3#8, 0x4B#8, 0x87#8, 0x0F#8] then .data
  else if b ∈ [0xD2#8, 0x5A#8, 0x1E#8, 0x96#8, 0x3C#8] then .handshake
  else if b = 0x78#8 then .split
  else if b = 0xF0#8 then .ext
  else .invalid

/-- `kind(s)` (R110): the `ext` flag overrides the PID byte. -/
def Packet.kind (p : Packet) : Kind :=
  match p.buf with
  | [] => .absent
  | b :: _ => if p.ext then .ext2 else pidKind b

/-- `minlen` of a kind (spec/30_encoding.md R97); none where every field accessor is `Unknown`. -/
def Kind.minlen : Kind → Option Nat
  | .sof => some 3
  | .token => some 3
  | .data => some 3
  | .handshake => some 1
  | .split => some 4
  | .ext => some 3
  | .ext2 => some 3
  | .invalid => none
  | .absent => none

/-- `nomlen` of a kind (spec/30_encoding.md R97); none where no exact length is named. -/
def Kind.nomlen : Kind → Option Nat
  | .sof => some 3
  | .token => some 3
  | .data => none
  | .handshake => some 1
  | .split => some 4
  | .ext => some 3
  | .ext2 => some 3
  | .invalid => none
  | .absent => none

/-- `has(s, KS)` (R111). -/
def Packet.has (p : Packet) (ks : List Kind) : Bool :=
  match p.kind.minlen with
  | some m => decide (p.kind ∈ ks) && decide (m ≤ p.len)
  | none => false

/-- The kinds whose CRC-5 covers the 11 bits after the first byte (spec/41_crc.md R153). -/
def kindsCrc11 : List Kind := [.token, .sof, .ext, .ext2]

/-! ### Packet accessors (spec/40_packet.md R120 to R135) -/

/-- `pid(s)` (R120). -/
def Packet.pid (p : Packet) : Option Byte := p.buf[0]?

/-- `subpid(s)` (R121). DEDUCED (log 15): a flagged packet of 1 or 2 bytes answers its first byte, as R121's formula has
it; the general rules R111, R254 (first row) and D22 read otherwise, and spec/90_conflicts.md's order of authority puts the
contract sentence R121 quotes above the test sentence they quote. -/
def Packet.subpid (p : Packet) : Option Byte := if p.ext then p.buf[0]? else none

/-- `ptype(s)` (R122), with the codes of spec/30_encoding.md R85. -/
def Packet.ptype (p : Packet) : BitVec 3 :=
  match p.kind with
  | .sof => 0#3
  | .token => 1#3
  | .data => 2#3
  | .handshake => 3#3
  | .split => 4#3
  | .ext => 5#3
  | .ext2 => 5#3
  | .invalid => 6#3
  | .absent => 6#3

/-- `addr(s)` (R123, spec/30_encoding.md R91). -/
def Packet.addr (p : Packet) : Option (BitVec 7) :=
  if p.has [.token, .ext] then do
    let b1 ← p.buf[1]?
    some (b1.extractLsb' 0 7)
  else none

/-- `endp(s)` (R124, spec/30_encoding.md R91). -/
def Packet.endp (p : Packet) : Option (BitVec 4) :=
  if p.has [.token, .ext] then do
    let b1 ← p.buf[1]?
    let b2 ← p.buf[2]?
    some (b2.extractLsb' 0 3 ++ b1.extractLsb' 7 1)
  else none

/-- `frame(s)` (R125, spec/30_encoding.md R92). -/
def Packet.frame (p : Packet) : Option (BitVec 11) :=
  if p.has [.sof] then do
    let b1 ← p.buf[1]?
    let b2 ← p.buf[2]?
    some (b2.extractLsb' 0 3 ++ b1)
  else none

/-- `hubaddr(s)` (R126, spec/30_encoding.md R93). -/
def Packet.hubaddr (p : Packet) : Option (BitVec 7) :=
  if p.has [.split] then do
    let b1 ← p.buf[1]?
    some (b1.extractLsb' 0 7)
  else none

/-- `hubport(s)` (R127). -/
def Packet.hubport (p : Packet) : Option (BitVec 7) :=
  if p.has [.split] then do
    let b2 ← p.buf[2]?
    some (b2.extractLsb' 0 7)
  else none

/-- `sc(s)` (R128): 0 start-split, 1 complete-split. -/
def Packet.sc (p : Packet) : Option (BitVec 1) :=
  if p.has [.split] then do
    let b1 ← p.buf[1]?
    some (b1.extractLsb' 7 1)
  else none

/-- `sbit(s)` (R129). -/
def Packet.sbit (p : Packet) : Option (BitVec 1) :=
  if p.has [.split] then do
    let b2 ← p.buf[2]?
    some (b2.extractLsb' 7 1)
  else none

/-- `ebit(s)` (R130). -/
def Packet.ebit (p : Packet) : Option (BitVec 1) :=
  if p.has [.split] then do
    let b3 ← p.buf[3]?
    some (b3.extractLsb' 0 1)
  else none

/-- `et(s)` (R131). -/
def Packet.et (p : Packet) : Option (BitVec 2) :=
  if p.has [.split] then do
    let b3 ← p.buf[3]?
    some (b3.extractLsb' 1 2)
  else none

/-- `crc5_stored(s)` (R132). -/
def Packet.crc5Stored (p : Packet) : Option (BitVec 5) :=
  if p.has kindsCrc11 then do
    let b2 ← p.buf[2]?
    some (b2.extractLsb' 3 5)
  else if p.has [.split] then do
    let b3 ← p.buf[3]?
    some (b3.extractLsb' 3 5)
  else none

/-- `crc5_computed(s)` (R133): the PID byte is not covered. -/
def Packet.crc5Computed (p : Packet) : Option (BitVec 5) :=
  if p.has kindsCrc11 then some (crc5 (bitstream p.buf 1 11))
  else if p.has [.split] then some (crc5 (bitstream p.buf 1 19))
  else none

/-- `crc16_stored(s)` (R134): the last two bytes, low byte first (spec/30_encoding.md R94). -/
def Packet.crc16Stored (p : Packet) : Option (BitVec 16) :=
  if p.has [.data] then do
    let lo ← p.buf[p.len - 2]?
    let hi ← p.buf[p.len - 1]?
    some (hi ++ lo)
  else none

/-- `crc16_computed(s)` (R135): over the payload, not the PID and not the CRC field. -/
def Packet.crc16Computed (p : Packet) : Option (BitVec 16) :=
  if p.has [.data] then some (crc16 (bitstream p.buf 1 (8 * (p.len - 3))))
  else none

/-! ### The element under work (spec/42_element.md) -/

/-- `cons(t)`, the constituent slots in order (R170). -/
def EType.cons : EType → List SlotId
  | .invalidPacket => [.spl]
  | .startOfFrame => [.spl]
  | .transaction => [.tok, .dat, .hsk]
  | .splitTransaction => [.spl, .tok, .dat, .hsk]
  | .lpmTransaction => [.tok, .spl, .hsk]
  | .reset => []
  | .suspended => []
  | .keepAlive => []
  | .powerChange => []
  | .highSpeedHandshake => []
  | .trigger => []

/-- The constituent packets of the element under work, in the order of `cons`. -/
def State.elmPackets (s : State) : List Packet := s.etype.cons.map s.slot

/-- `elm_empty()` (R174): `Unknown` for a type without packets. -/
def State.elmEmpty (s : State) : Option Bool :=
  match s.elmPackets with
  | [] => none
  | ps => some (ps.all Packet.isEmpty)

/-- The element types whose address and endpoint come from the token slot (R175, R176). -/
def EType.hasToken : EType → Bool
  | .transaction => true
  | .splitTransaction => true
  | .lpmTransaction => true
  | .invalidPacket => false
  | .startOfFrame => false
  | .reset => false
  | .suspended => false
  | .keepAlive => false
  | .powerChange => false
  | .highSpeedHandshake => false
  | .trigger => false

/-- `elm_addr()` (R175). -/
def State.elmAddr (s : State) : Option (BitVec 7) :=
  if s.etype.hasToken then (s.slot .tok).addr else none

/-- `elm_endp()` (R176). -/
def State.elmEndp (s : State) : Option (BitVec 4) :=
  if s.etype.hasToken then (s.slot .tok).endp else none

/-- `elm_speed()` (R177): the tag of the first non-empty constituent, else `Unknown` as a code. -/
def State.elmSpeed (s : State) : Speed :=
  match s.elmPackets.find? fun p => !p.isEmpty with
  | some p => p.speed
  | none => .unknown

/-- The forward event of the element under work (spec/43_sink_chain.md R194). -/
def State.forwardEvent (s : State) : ForwardEvent := ⟨s.etype, s.etime, s.estruct, s.elmPackets⟩

/-- `forward` (R194, spec/00_scope.md R8): emit one event and answer with `fwd = 1`. -/
def State.forward (s : State) : State :=
  { s with trace := s.trace ++ [s.forwardEvent] }.answer ⟨0#64, false, 0#3, true⟩

end Sys2Proof.Machine
end

