-- ==== Sys2Proof/Machine/Flags.lean ====
section
/-! DEFINITION. The flag computations: the error sets of a packet and of the element under work (spec/30_encoding.md
R86, spec/40_packet.md R136, spec/42_element.md R178). They are computed on each read and stored nowhere
(spec/10_state.md R27). -/

namespace Sys2Proof.Machine

/-- One bit of an error set. -/
def errBit (n : Nat) (b : Bool) : BitVec 16 := if b then 1#16 <<< n else 0#16

/-- The stored field is known and is not the recomputed value (R136, `E_CRC`); `Unknown` equals nothing (R8). -/
def crcDiffers {w : Nat} (stored computed : Option (BitVec w)) : Bool :=
  match stored with
  | some v => decide (computed ≠ some v)
  | none => false

/-- `E_PID`: the first byte is no PID (R136). -/
def Packet.badPid (p : Packet) : Bool := p.kind == .invalid

/-- `E_CRC`: the stored CRC is not the recomputed one (R136, spec/41_crc.md R153). -/
def Packet.badCrc (p : Packet) : Bool :=
  crcDiffers p.crc5Stored p.crc5Computed || crcDiffers p.crc16Stored p.crc16Computed

/-- `E_LEN`: not the kind's exact length, or a data packet below its minimum (R136). -/
def Packet.badLen (p : Packet) : Bool :=
  match p.kind.nomlen with
  | some m => p.len != m
  | none => p.kind == .data && decide (p.len < 3)

/-- `E_NO_ADDR_ENDP`: too short for ADDR and ENDP (R136). -/
def Packet.noAddrEndp (p : Packet) : Bool := decide (p.kind ∈ [.token, .ext]) && decide (p.len < 3)

/-- `E_NO_CRC5`: too short for the CRC-5 field (R136). -/
def Packet.noCrc5 (p : Packet) : Bool :=
  decide (p.kind ∈ kindsCrc11) && decide (p.len < 3) || p.kind == .split && decide (p.len < 4)

/-- `E_NO_HUB`: too short for the hub fields (R136). -/
def Packet.noHub (p : Packet) : Bool := p.kind == .split && decide (p.len < 4)

/-- `pkt_errs(s)` (R136): an absent packet has no errors. -/
def Packet.errs (p : Packet) : BitVec 16 :=
  if p.kind = .absent then 0#16
  else errBit 0 p.badPid ||| errBit 1 p.badCrc ||| errBit 2 p.badLen ||| errBit 3 p.noAddrEndp |||
    errBit 4 p.noCrc5 ||| errBit 5 p.noHub

/-- `P` of R178: the union of the constituents' error sets. -/
def State.elmPacketErrs (s : State) : BitVec 16 := s.elmPackets.foldr (fun p e => p.errs ||| e) 0#16

/-- `elm_errs()` (R178): `estruct` in bits 10..8, `E_CONSTITUENT` in bit 7, the constituents' bits below. -/
def State.elmErrs (s : State) : BitVec 16 :=
  s.estruct.setWidth 16 <<< 8 ||| errBit 7 (s.elmPacketErrs != 0#16) ||| s.elmPacketErrs

end Sys2Proof.Machine
end

