-- ==== Sys2Proof/Machine/Accumulator.lean ====
section
/-! DEFINITION. The frame-histogram accumulator: the meanings of `ELM.PUSH`, `DECAY` and `CLEAR` and the functions they
are made of (spec/44_frame_decomposer.md R200 to R219). -/

namespace Sys2Proof.Machine

/-! ### Cells (spec/00_scope.md R12) -/

/-- `sat_add(c, w) = min(CELL_MAX, c + w)`. -/
def satAdd (c : Byte) (w : Nat) : Byte := BitVec.ofNat 8 (min Config.cellMax (c.toNat + w))

/-- `floor_sub(c, d)`: `c - d`, floored at 0. -/
def floorSub (c : Byte) (d : Nat) : Byte := BitVec.ofNat 8 (c.toNat - d)

/-- One covering packet adds the weight to a cell (R213). -/
def paintCell (c : Byte) : Byte := satAdd c Config.histWeight

/-- One decay step of a cell (R215): reduce it by `c div 25 + 3`, floored at 0. -/
def decayCell (c : Byte) : Byte := floorSub c (c.toNat / Config.decayDiv + Config.decayAdd)

/-! ### Bucketing (R210 to R213) -/

/-- The frame duration in ticks and the expansion factor of a packet speed (R211, R212); none for `Unknown`, for which
the spec names neither. -/
def Speed.scale : Speed → Option (Nat × Nat)
  | .unknown => none
  | .low => some (Config.frameTicksFsls, Config.expLow)
  | .full => some (Config.frameTicksFsls, Config.expFull)
  | .high => some (Config.frameTicksHigh, Config.expHigh)
  | .lowPrefixed => some (Config.frameTicksFsls, Config.expLow)

/-- The position of a packet `ft` ticks after the origin (R211). -/
def framePos (ft ticks : Nat) : Nat := ft * Config.histLen / ticks

/-- The footprint of a packet of `len` bytes (R212): one sync plus the raw data, times the factor. -/
def footprint (len factor : Nat) : Nat := (1 + len) * factor

/-- `bucket(h, i)` on the histogram's cells (R210): the three skips, then the cells the packet covers. -/
def bucketInto (origin : Time) (p : Packet) (m : Memory) : Memory :=
  if p.len = 0 then m
  else
    match p.speed.scale with
    | none => m
    | some (ticks, factor) =>
      if p.time.toNat < origin.toNat then m
      else
        let pos := framePos (p.time.toNat - origin.toNat) ticks
        m.paint paintCell pos (min (pos + footprint p.len factor) Config.histLen)

/-- `bucket(h, i)` (R210): packet `k` into histogram `h`. -/
def State.bucket (s : State) (h : HistSel) (k : SlotId) : State :=
  s.setHist h (bucketInto s.origin (s.slot k) (s.hist h))

/-! ### Classification, counters, device tracking (R207 to R209) -/

/-- `classify()` (R207): `Unknown` PIDs match nothing. -/
def State.classify (s : State) : HistSel :=
  if (s.slot .hsk).pid = some 0x5A#8 then .nak
  else if (s.slot .tok).pid = some 0x69#8 then .inn
  else .out

/-- `count(h)` (R208): the category counter, then the five PID tests, whatever `h` is (spec/90_conflicts.md C3). -/
def State.count (s : State) (h : HistSel) : State :=
  (((((s.incCnt h.counter).incCntIf (decide ((s.slot .hsk).pid = some 0xD2#8)) 3#3).incCntIf
    (decide ((s.slot .tok).pid = some 0x2D#8)) 4#3).incCntIf
    (decide ((s.slot .tok).pid = some 0xA5#8)) 5#3).incCntIf
    (decide ((s.slot .dat).pid = some 0xC3#8)) 6#3).incCntIf
    (decide ((s.slot .dat).pid = some 0x4B#8)) 7#3

/-- `track(a)` (R209): a known address other than 0 is seen, counted and remembered. -/
def State.track (s : State) (a : Option (BitVec 7)) : State :=
  match a with
  | none => s
  | some a => if a = 0#7 then s else { s.setDev a true (s.devcntAt a + 1#32) with lastDev := a }

/-! ### Handlers (R201 to R206) -/

/-- `on_sof()` (R201). -/
def State.onSof (s : State) : State :=
  { s with origin := s.etime, hs := decide (s.elmSpeed = Speed.high) }.incCnt 5#3

/-- `on_keepalive()` (R202). -/
def State.onKeepAlive (s : State) : State := { s with origin := s.etime, hs := false }

/-- `on_transaction()` (R203). -/
def State.onTransaction (s : State) : State :=
  let h := s.classify
  ((((s.bucket h .tok).bucket h .dat).bucket h .hsk).count h).track s.elmAddr

/-- `on_split()` (R204): the split packet is bucketed too, and the hub is tracked. -/
def State.onSplit (s : State) : State :=
  let h := s.classify
  (((((s.bucket h .spl).bucket h .tok).bucket h .dat).bucket h .hsk).count h).track (s.slot .spl).hubaddr

/-- The handler of the element's type (R200). -/
def State.onElement (s : State) : State :=
  match s.etype with
  | .startOfFrame => s.onSof
  | .keepAlive => s.onKeepAlive
  | .transaction => s.onTransaction
  | .splitTransaction => s.onSplit
  | .reset => s.zeroAll
  | .invalidPacket => s
  | .lpmTransaction => s
  | .suspended => s
  | .powerChange => s
  | .highSpeedHandshake => s
  | .trigger => s

/-! ### The meanings -/

/-- `ELM.PUSH` (R200): refused outside `RUN`; otherwise the element's handler runs and the element is forwarded. -/
def execElmPush (s : State) : Host.Outcome State Fault Refusal :=
  if s.phase = .run then .next s.onElement.forward
  else .next (s.cmdError .phase)

/-- `DECAY` (R215): every cell of the three histograms. -/
def execDecay (s : State) : Host.Outcome State Fault Refusal :=
  .next (s.mapHists (Memory.mapCells decayCell)).ack

/-- `CLEAR` (R217). -/
def execClear (s : State) : Host.Outcome State Fault Refusal :=
  .next s.zeroAll.ack

end Sys2Proof.Machine
end

