-- ==== Sys2Proof/Machine/Crc.lean ====
section
/-! DEFINITION. The meanings of the two CRC commands (spec/41_crc.md R154, R155). -/

namespace Sys2Proof.Machine

/-- `CRC5` (R154): over `n` bits from byte `off`; `Unknown` where the range runs past the packet. -/
def execCrc5 (k : SlotId) (off n : BitVec 11) (s : State) : Host.Outcome State Fault Refusal :=
  if 8 * off.toNat + n.toNat ≤ 8 * (s.slot k).len then
    .next (s.respond (crc5 (bitstream (s.slot k).buf off.toNat n.toNat)))
  else .next s.respondUnknown

/-- `CRC16` (R155): over `n` bytes from byte `off`; `Unknown` where the range runs past the packet. -/
def execCrc16 (k : SlotId) (off n : BitVec 11) (s : State) : Host.Outcome State Fault Refusal :=
  if off.toNat + n.toNat ≤ (s.slot k).len then
    .next (s.respond (crc16 (bitstream (s.slot k).buf off.toNat (8 * n.toNat))))
  else .next s.respondUnknown

end Sys2Proof.Machine
end

