-- ==== Sys2Proof/Machine/Element.lean ====
section
/-! DEFINITION. The meanings of the nine element commands (spec/42_element.md R171 to R180). -/

namespace Sys2Proof.Machine

/-- `ELM.SET` (R171): a reserved type writes nothing; otherwise the header is written. -/
def execElmSet (etype : BitVec 4) (estruct : BitVec 3) (time : Time) (s : State) :
    Host.Outcome State Fault Refusal :=
  match EType.ofCode? etype with
  | none => .next (s.cmdError .reserved)
  | some t => .next { s with etype := t, estruct := estruct, etime := time }.ack

/-- `ELM.TYPE` (R172). -/
def execElmType (s : State) : Host.Outcome State Fault Refusal :=
  .next (s.respond s.etype.code)

/-- `ELM.TIME` (R173). -/
def execElmTime (s : State) : Host.Outcome State Fault Refusal :=
  .next (s.respond s.etime)

/-- `ELM.EMPTY` (R174). -/
def execElmEmpty (s : State) : Host.Outcome State Fault Refusal :=
  .next (s.respondOption (s.elmEmpty.map BitVec.ofBool))

/-- `ELM.ADDR` (R175). -/
def execElmAddr (s : State) : Host.Outcome State Fault Refusal :=
  .next (s.respondOption s.elmAddr)

/-- `ELM.ENDP` (R176). -/
def execElmEndp (s : State) : Host.Outcome State Fault Refusal :=
  .next (s.respondOption s.elmEndp)

/-- `ELM.SPEED` (R177): always a speed code, never the `unk` flag. -/
def execElmSpeed (s : State) : Host.Outcome State Fault Refusal :=
  .next (s.respond s.elmSpeed.code)

/-- `ELM.ERRS` (R179). -/
def execElmErrs (s : State) : Host.Outcome State Fault Refusal :=
  .next (s.respond s.elmErrs)

/-- `ELM.VALID` (R180). -/
def execElmValid (s : State) : Host.Outcome State Fault Refusal :=
  .next (s.respondBool (s.elmErrs == 0#16))

end Sys2Proof.Machine
end

