-- ==== Sys2Proof/Machine/Packet.lean ====
section
/-! DEFINITION. The meanings of the 26 packet commands (spec/40_packet.md R112 to R138). -/

namespace Sys2Proof.Machine

/-! ### Loading a slot -/

/-- `PKT.CLR` (R112). -/
def execPktClr (k : SlotId) (s : State) : Host.Outcome State Fault Refusal :=
  .next (s.setSlot k Packet.cleared).ack

/-- `PKT.SET` (R113): a reserved speed writes nothing; otherwise the slot is emptied and gets its attributes. -/
def execPktSet (k : SlotId) (speed : BitVec 3) (ext : Bool) (time : Time) (s : State) :
    Host.Outcome State Fault Refusal :=
  match Speed.ofCode? speed with
  | none => .next (s.cmdError .reserved)
  | some sp => .next (s.setSlot k ⟨[], time, sp, ext⟩).ack

/-- `PKT.APP` (R114): a full slot refuses the byte. -/
def execPktApp (k : SlotId) (byte : Byte) (s : State) : Host.Outcome State Fault Refusal :=
  if (s.slot k).len = Config.pktMax then .next (s.cmdError .range)
  else .next (s.setSlot k { s.slot k with buf := (s.slot k).buf ++ [byte] }).ack

/-! ### Reading a slot back -/

/-- `PKT.RB` (R115): `Unknown` at or past the end. -/
def execPktRb (k : SlotId) (off : BitVec 11) (s : State) : Host.Outcome State Fault Refusal :=
  .next (s.respondOption (s.slot k).buf[off.toNat]?)

/-- `PKT.LEN` (R116), an 11-bit length (spec/30_encoding.md R74). -/
def execPktLen (k : SlotId) (s : State) : Host.Outcome State Fault Refusal :=
  .next (s.respond (BitVec.ofNat 11 (s.slot k).len))

/-- `PKT.TIME` (R117). -/
def execPktTime (k : SlotId) (s : State) : Host.Outcome State Fault Refusal :=
  .next (s.respond (s.slot k).time)

/-- `PKT.ATTR` (R118): the flag above the speed code. -/
def execPktAttr (k : SlotId) (s : State) : Host.Outcome State Fault Refusal :=
  .next (s.respond (BitVec.ofBool (s.slot k).ext ++ (s.slot k).speed.code))

/-! ### The accessors -/

/-- `PKT.EMPTY` (R119). -/
def execPktEmpty (k : SlotId) (s : State) : Host.Outcome State Fault Refusal :=
  .next (s.respondBool (s.slot k).isEmpty)

/-- `PKT.PID` (R120). -/
def execPktPid (k : SlotId) (s : State) : Host.Outcome State Fault Refusal :=
  .next (s.respondOption (s.slot k).pid)

/-- `PKT.SUBPID` (R121; log 15). -/
def execPktSubpid (k : SlotId) (s : State) : Host.Outcome State Fault Refusal :=
  .next (s.respondOption (s.slot k).subpid)

/-- `PKT.TYPE` (R122). -/
def execPktType (k : SlotId) (s : State) : Host.Outcome State Fault Refusal :=
  .next (s.respond (s.slot k).ptype)

/-- `PKT.ADDR` (R123). -/
def execPktAddr (k : SlotId) (s : State) : Host.Outcome State Fault Refusal :=
  .next (s.respondOption (s.slot k).addr)

/-- `PKT.ENDP` (R124). -/
def execPktEndp (k : SlotId) (s : State) : Host.Outcome State Fault Refusal :=
  .next (s.respondOption (s.slot k).endp)

/-- `PKT.FRAME` (R125). -/
def execPktFrame (k : SlotId) (s : State) : Host.Outcome State Fault Refusal :=
  .next (s.respondOption (s.slot k).frame)

/-- `PKT.HUBADDR` (R126). -/
def execPktHubaddr (k : SlotId) (s : State) : Host.Outcome State Fault Refusal :=
  .next (s.respondOption (s.slot k).hubaddr)

/-- `PKT.HUBPORT` (R127). -/
def execPktHubport (k : SlotId) (s : State) : Host.Outcome State Fault Refusal :=
  .next (s.respondOption (s.slot k).hubport)

/-- `PKT.SC` (R128). -/
def execPktSc (k : SlotId) (s : State) : Host.Outcome State Fault Refusal :=
  .next (s.respondOption (s.slot k).sc)

/-- `PKT.S` (R129). -/
def execPktS (k : SlotId) (s : State) : Host.Outcome State Fault Refusal :=
  .next (s.respondOption (s.slot k).sbit)

/-- `PKT.E` (R130). -/
def execPktE (k : SlotId) (s : State) : Host.Outcome State Fault Refusal :=
  .next (s.respondOption (s.slot k).ebit)

/-- `PKT.ET` (R131). -/
def execPktEt (k : SlotId) (s : State) : Host.Outcome State Fault Refusal :=
  .next (s.respondOption (s.slot k).et)

/-- `PKT.CRC5` (R132). -/
def execPktCrc5 (k : SlotId) (s : State) : Host.Outcome State Fault Refusal :=
  .next (s.respondOption (s.slot k).crc5Stored)

/-- `PKT.CRC5C` (R133). -/
def execPktCrc5c (k : SlotId) (s : State) : Host.Outcome State Fault Refusal :=
  .next (s.respondOption (s.slot k).crc5Computed)

/-- `PKT.CRC16` (R134). -/
def execPktCrc16 (k : SlotId) (s : State) : Host.Outcome State Fault Refusal :=
  .next (s.respondOption (s.slot k).crc16Stored)

/-- `PKT.CRC16C` (R135). -/
def execPktCrc16c (k : SlotId) (s : State) : Host.Outcome State Fault Refusal :=
  .next (s.respondOption (s.slot k).crc16Computed)

/-- `PKT.ERRS` (R137). -/
def execPktErrs (k : SlotId) (s : State) : Host.Outcome State Fault Refusal :=
  .next (s.respond (s.slot k).errs)

/-- `PKT.VALID` (R138). -/
def execPktValid (k : SlotId) (s : State) : Host.Outcome State Fault Refusal :=
  .next (s.respondBool ((s.slot k).errs == 0#16))

end Sys2Proof.Machine
end

