-- ==== Sys2Proof/Machine/Sink.lean ====
section
/-! DEFINITION. The meanings of the three sink-chain commands and the phase machine they drive (spec/43_sink_chain.md
R191 to R195). -/

namespace Sys2Proof.Machine

/-- `NOP` (R195): nothing but its all-zero response. -/
def execNop (s : State) : Host.Outcome State Fault Refusal :=
  .next s.ack

/-- `INIT` (R192): refused in `RUN`; otherwise the accumulator is zeroed and a session begins. -/
def execInit (s : State) : Host.Outcome State Fault Refusal :=
  if s.phase = .run then .next (s.cmdError .phase)
  else .next { s.zeroAll with phase := .run }.ack

/-- `FINAL` (R193): accepted in `RUN` only; it changes the phase and nothing else. -/
def execFinal (s : State) : Host.Outcome State Fault Refusal :=
  if s.phase = .run then .next { s with phase := .done }.ack
  else .next (s.cmdError .phase)

end Sys2Proof.Machine
end

