-- ==== Sys2Proof/Machine/Transfer.lean ====
section
/-! DEFINITION. The meanings of the ten state-transfer commands (spec/45_state_transfer.md R230 to R239). -/

namespace Sys2Proof.Machine

/-- `HIST.RD` (R230): `RESERVED` before `RANGE`. -/
def execHistRd (h : BitVec 2) (idx : BitVec 16) (s : State) : Host.Outcome State Fault Refusal :=
  match HistSel.ofCode? h with
  | none => .next (s.cmdError .reserved)
  | some sel =>
    if Config.histLen ≤ idx.toNat then .next (s.cmdError .range)
    else .next (s.respond ((s.hist sel).read idx.toNat))

/-- `HIST.WR` (R231): as `HIST.RD` on an error; nothing is written then. -/
def execHistWr (h : BitVec 2) (idx : BitVec 16) (v : Byte) (s : State) : Host.Outcome State Fault Refusal :=
  match HistSel.ofCode? h with
  | none => .next (s.cmdError .reserved)
  | some sel =>
    if Config.histLen ≤ idx.toNat then .next (s.cmdError .range)
    else .next (s.setHist sel ((s.hist sel).write idx.toNat v)).ack

/-- `HIST.CLR` (R232): the three histograms and nothing else. -/
def execHistClr (s : State) : Host.Outcome State Fault Refusal :=
  .next (s.mapHists fun _ => []).ack

/-- `CNT.RD` (R233). -/
def execCntRd (c : BitVec 3) (s : State) : Host.Outcome State Fault Refusal :=
  .next (s.respond (s.cntAt c))

/-- `CNT.WR` (R234). -/
def execCntWr (c : BitVec 3) (v : Word) (s : State) : Host.Outcome State Fault Refusal :=
  .next (s.setCnt c v).ack

/-- `DEV.RD` (R235): the seen flag above the count. -/
def execDevRd (a : BitVec 7) (s : State) : Host.Outcome State Fault Refusal :=
  .next (s.respond (BitVec.ofBool (s.devseenAt a) ++ s.devcntAt a))

/-- `DEV.WR` (R236): both parts independently; `last_dev` stays. -/
def execDevWr (a : BitVec 7) (seen : Bool) (count : Word) (s : State) : Host.Outcome State Fault Refusal :=
  .next (s.setDev a seen count).ack

/-- `DEV.LAST` (R237). -/
def execDevLast (s : State) : Host.Outcome State Fault Refusal :=
  .next (s.respond s.lastDev)

/-- `STAT.RD` (R238): `hs` above the phase code. -/
def execStatRd (s : State) : Host.Outcome State Fault Refusal :=
  .next (s.respond (BitVec.ofBool s.hs ++ s.phase.code))

/-- `ORG.RD` (R239). -/
def execOrgRd (s : State) : Host.Outcome State Fault Refusal :=
  .next (s.respond s.origin)

end Sys2Proof.Machine
end

