-- ==== Sys2Proof/Machine/Dispatch.lean ====
section
/-! DEFINITION. One arm per command: which meaning a command has. -/

namespace Sys2Proof.Machine

def exec (i : Instr) (s : State) : Host.Outcome State Fault Refusal :=
  match i with
  | .nop => Sys2Proof.Machine.execNop s
  | .pktClr k => Sys2Proof.Machine.execPktClr k s
  | .pktSet k speed ext time => Sys2Proof.Machine.execPktSet k speed ext time s
  | .pktApp k byte => Sys2Proof.Machine.execPktApp k byte s
  | .pktRb k off => Sys2Proof.Machine.execPktRb k off s
  | .pktLen k => Sys2Proof.Machine.execPktLen k s
  | .pktTime k => Sys2Proof.Machine.execPktTime k s
  | .pktAttr k => Sys2Proof.Machine.execPktAttr k s
  | .pktEmpty k => Sys2Proof.Machine.execPktEmpty k s
  | .pktPid k => Sys2Proof.Machine.execPktPid k s
  | .pktSubpid k => Sys2Proof.Machine.execPktSubpid k s
  | .pktType k => Sys2Proof.Machine.execPktType k s
  | .pktAddr k => Sys2Proof.Machine.execPktAddr k s
  | .pktEndp k => Sys2Proof.Machine.execPktEndp k s
  | .pktFrame k => Sys2Proof.Machine.execPktFrame k s
  | .pktHubaddr k => Sys2Proof.Machine.execPktHubaddr k s
  | .pktHubport k => Sys2Proof.Machine.execPktHubport k s
  | .pktSc k => Sys2Proof.Machine.execPktSc k s
  | .pktS k => Sys2Proof.Machine.execPktS k s
  | .pktE k => Sys2Proof.Machine.execPktE k s
  | .pktEt k => Sys2Proof.Machine.execPktEt k s
  | .pktCrc5 k => Sys2Proof.Machine.execPktCrc5 k s
  | .pktCrc5c k => Sys2Proof.Machine.execPktCrc5c k s
  | .pktCrc16 k => Sys2Proof.Machine.execPktCrc16 k s
  | .pktCrc16c k => Sys2Proof.Machine.execPktCrc16c k s
  | .pktErrs k => Sys2Proof.Machine.execPktErrs k s
  | .pktValid k => Sys2Proof.Machine.execPktValid k s
  | .crc5 k off n => Sys2Proof.Machine.execCrc5 k off n s
  | .crc16 k off n => Sys2Proof.Machine.execCrc16 k off n s
  | .elmSet etype estruct time => Sys2Proof.Machine.execElmSet etype estruct time s
  | .elmType => Sys2Proof.Machine.execElmType s
  | .elmTime => Sys2Proof.Machine.execElmTime s
  | .elmEmpty => Sys2Proof.Machine.execElmEmpty s
  | .elmAddr => Sys2Proof.Machine.execElmAddr s
  | .elmEndp => Sys2Proof.Machine.execElmEndp s
  | .elmSpeed => Sys2Proof.Machine.execElmSpeed s
  | .elmErrs => Sys2Proof.Machine.execElmErrs s
  | .elmValid => Sys2Proof.Machine.execElmValid s
  | .init => Sys2Proof.Machine.execInit s
  | .final => Sys2Proof.Machine.execFinal s
  | .elmPush => Sys2Proof.Machine.execElmPush s
  | .decay => Sys2Proof.Machine.execDecay s
  | .clear => Sys2Proof.Machine.execClear s
  | .histRd h idx => Sys2Proof.Machine.execHistRd h idx s
  | .histWr h idx v => Sys2Proof.Machine.execHistWr h idx v s
  | .histClr => Sys2Proof.Machine.execHistClr s
  | .cntRd c => Sys2Proof.Machine.execCntRd c s
  | .cntWr c v => Sys2Proof.Machine.execCntWr c v s
  | .devRd a => Sys2Proof.Machine.execDevRd a s
  | .devWr a seen count => Sys2Proof.Machine.execDevWr a seen count s
  | .devLast => Sys2Proof.Machine.execDevLast s
  | .statRd => Sys2Proof.Machine.execStatRd s
  | .orgRd => Sys2Proof.Machine.execOrgRd s

end Sys2Proof.Machine
end

