-- ==== Sys2Proof/Machine/Step.lean ====
section
/-! DEFINITION. One step of the block: take the next host event, decode the command, run it (spec/00_scope.md R13). -/

namespace Sys2Proof.Machine

/-- One step. The block takes the event at the head of the command port: hardware reset resets it
(spec/70_reset_and_hazards.md R270); a command that decodes is executed; a word the decoder refuses is answered with its
command error (spec/60_exceptions.md R251). With no event waiting it holds its state. -/
def step (s : State) : Host.Outcome State Fault Refusal :=
  match s.inputs with
  | [] => .next (idle s)
  | .reset :: rest => .next (hardReset rest)
  | .command c :: rest =>
    match decode c with
    | .error e => .next ((s.take rest).cmdError e)
    | .ok i => exec i (s.take rest)

/-- `s` with the command of a table word issued, so that the very next step takes it (log 2). -/
def State.withFetchWord (s : State) (nbits w : Nat) : State := s.issueNext (commandOfTableWord nbits w)

end Sys2Proof.Machine
end

