-- ==== Sys2Proof/Machine/Pseudo.lean ====
section
/-! DEFINITION. The pseudo-commands of spec/30_encoding.md R80 as the command lists they stand for, and a list of
commands run in order (spec/20_memory.md R59). None has an encoding of its own. -/

namespace Sys2Proof.Machine

/-- Run commands one after another, each on the state the one before it left. -/
def execAll : List Instr → State → Host.Outcome State Fault Refusal
  | [], s => .next s
  | i :: rest, s =>
    match exec i s with
    | .next t => execAll rest t
    | .fault f => .fault f
    | .refused r => .refused r

/-- `PKT.LOAD s, speed, ext, time, b0 .. b(n-1)`. -/
def pktLoad (k : SlotId) (speed : BitVec 3) (ext : Bool) (time : Time) (bytes : List Byte) : List Instr :=
  .pktSet k speed ext time :: bytes.map fun b => .pktApp k b

/-- `ELM.SEND etype, time`. -/
def elmSend (etype : BitVec 4) (time : Time) : List Instr := [.elmSet etype 0#3 time, .elmPush]

/-- `HIST.GET h`. -/
def histGet (h : BitVec 2) : List Instr := (List.range Config.histLen).map fun i => .histRd h (BitVec.ofNat 16 i)

/-- `HIST.PUT h, v0 .. v7499`: the `i`-th value into cell `i`. -/
def histPut (h : BitVec 2) (vs : List Byte) : List Instr :=
  vs.zipIdx.map fun x => .histWr h (BitVec.ofNat 16 x.2) x.1

/-- `CNT.GETALL`. -/
def cntGetAll : List Instr := (List.range 8).map fun i => .cntRd (BitVec.ofNat 3 i)

/-- `CNT.SETALL v0 .. v7`. -/
def cntSetAll (vs : List Word) : List Instr := vs.zipIdx.map fun x => .cntWr (BitVec.ofNat 3 x.2) x.1

/-- `DEV.GETALL`. -/
def devGetAll : List Instr := (List.range 128).map fun i => .devRd (BitVec.ofNat 7 i)

/-- `DEV.SETALL e0 .. e127`, each entry a seen flag and a count. -/
def devSetAll (es : List (Bool × Word)) : List Instr :=
  es.zipIdx.map fun x => .devWr (BitVec.ofNat 7 x.2) x.1.1 x.1.2

end Sys2Proof.Machine
end

