-- ==== Sys2Proof/Safety.lean ====
section
/-! DEFINITION. What counts as a safe state and a safe run, in the terms the statements use. -/

namespace Sys2Proof.Machine

/-- A step of the block that answers a next state. -/
def State.StepsTo (s t : State) : Prop := step s = .next t

/-- The storage invariant: every packet fits its slot, and every histogram is in canonical form and inside its bounds
(the parts of spec/10_state.md R47 that the types of State do not say by themselves). -/
structure State.StorageOk (s : State) : Prop where
  packetsFit : ∀ k, (s.slot k).len ≤ Config.pktMax
  canonical  : ∀ h, (s.hist h).wf
  inBounds   : ∀ h, (s.hist h).inBounds

/-- The shape every response has: an unknown answer carries no data, a command error carries nothing else, and no code
above 4 is produced (spec/00_scope.md R9, spec/60_exceptions.md R251, R252). -/
structure Response.Legal (r : Response) : Prop where
  unknownBare : r.unk = true → r.rdata = 0#64 ∧ r.cerr = 0#3 ∧ r.fwd = false
  errorBare   : r.cerr ≠ 0#3 → r.rdata = 0#64 ∧ r.unk = false ∧ r.fwd = false
  codeSmall   : r.cerr.toNat ≤ 4

/-- The outputs fit together: every response is legal, and there is one forward event for each response that says so.
The two lists counted over are the model's (log 3), and hardware reset empties both (log 4). -/
structure State.OutputsOk (s : State) : Prop where
  legal   : ∀ r ∈ s.responses, r.Legal
  counted : s.trace.length = s.responses.countP fun r => r.fwd

/-- A state a run from reset can reach, whatever events the host puts on the port. -/
inductive State.Reachable : State → Prop where
  | reset : State.Reachable State.reset
  | issue (s : State) (e : HostEvent) : State.Reachable s → State.Reachable { s with inputs := s.inputs ++ [e] }
  | step (s t : State) : State.Reachable s → s.StepsTo t → State.Reachable t

/-- A run is safe when no step of it stops and the storage invariant holds (spec/00_scope.md R13: the step function is
total). -/
def State.Safe (s : State) : Prop := s.StorageOk ∧ ∃ t, s.StepsTo t

end Sys2Proof.Machine
end

