-- ==== Sys2Proof/Certificates/Slice0/Obligations.lean ====
section
/-! DEFINITION. The statements for the provers. The namespace `Sys2Proof.Stmt` restates the spec's own notation (bit
slices, little-endian fields, packet kinds, the two forms of each CRC, the cells a packet covers) without the model's
functions, so that a statement compares the machine with the spec and not with itself. -/

namespace Sys2Proof.Stmt

open Sys2Proof.Machine

/-! ### Notation of spec/00_scope.md -/

/-- The slice `v[hi:lo]` as an unsigned number (R6). -/
def bits (v hi lo : Nat) : Nat := v / 2 ^ lo % 2 ^ (hi + 1 - lo)

/-- The number `cw[hi:lo]`. -/
def fld (cw : Word) (hi lo : Nat) : Nat := bits cw.toNat hi lo

/-- Byte `i` of a packet's buffer as a number; it is used only where the packet has that byte. -/
def byteAt (p : Packet) (i : Nat) : Nat := (p.buf[i]?.getD 0#8).toNat

/-- `le(buf, off, k)`: the sum of `buf[off+j] * 256^j` over `j < k` (R7). -/
def le (p : Packet) (off k : Nat) : Nat := ((List.range k).map fun j => byteAt p (off + j) * 256 ^ j).sum

/-- `bitstream(buf, off, n)`: bit `i` is `buf[off + i div 8][i mod 8]` (R7). -/
def stream (p : Packet) (off n : Nat) : List Bool :=
  (List.range n).map fun i => (byteAt p (off + i / 8)).testBit (i % 8)

/-- The command answered with `respond(v)` and nothing else changed (R8). -/
def answers (s : State) (v : Nat) : State :=
  { s with responses := s.responses ++ [⟨BitVec.ofNat 64 v, false, 0#3, false⟩] }

/-- The command answered with `respond_unknown` and nothing else changed (R8). -/
def unknown (s : State) : State := { s with responses := s.responses ++ [⟨0#64, true, 0#3, false⟩] }

/-- The command answered with a command error and nothing else changed (spec/60_exceptions.md R251). -/
def refuses (s : State) (code : Nat) : State :=
  { s with responses := s.responses ++ [⟨0#64, false, BitVec.ofNat 3 code, false⟩] }

/-- `respond(v)` where the condition holds, else `respond_unknown`. -/
def answersIf (s : State) (known : Bool) (v : Nat) : State := if known then answers s v else unknown s

/-! ### Command words (spec/30_encoding.md R70, R71) -/

/-- Must-be-zero bits of format N are 0. -/
def fmtN (cw : Word) : Bool := fld cw 23 0 == 0
/-- Must-be-zero bits of format S are 0. -/
def fmtS (cw : Word) : Bool := fld cw 21 0 == 0
/-- Must-be-zero bits of format P are 0. -/
def fmtP (cw : Word) : Bool := fld cw 17 0 == 0
/-- Must-be-zero bits of format A are 0. -/
def fmtA (cw : Word) : Bool := fld cw 21 8 == 0
/-- Must-be-zero bits of format O are 0. -/
def fmtO (cw : Word) : Bool := fld cw 10 0 == 0
/-- Format R has no must-be-zero bit. -/
def fmtR (_ : Word) : Bool := true
/-- Must-be-zero bits of format E are 0. -/
def fmtE (cw : Word) : Bool := fld cw 16 0 == 0
/-- Must-be-zero bits of format H are 0. -/
def fmtH (cw : Word) : Bool := fld cw 21 16 == 0
/-- Must-be-zero bits of format K are 0. -/
def fmtK (cw : Word) : Bool := fld cw 23 3 == 0
/-- Must-be-zero bits of format D are 0. -/
def fmtD (cw : Word) : Bool := fld cw 23 7 == 0

/-- The slot `cw[23:22]` names (spec/10_state.md R20). -/
def slotOf (cw : Word) : SlotId :=
  match fld cw 23 22 with
  | 0 => .spl
  | 1 => .tok
  | 2 => .dat
  | _ => .hsk

/-- The event at the head of the command port is taken; `rest` waits behind it. -/
def taken (s : State) (rest : List HostEvent) : State := { s with inputs := rest }

/-- A command word whose opcode is `op`, taken from the port: where its must-be-zero bits are 0 it runs the command
`mk` reads from its fields and its write data, and otherwise it is answered with code 2 and changes nothing. -/
def Coded (op : Nat) (zeroes : Word → Bool) (mk : Word → Data → Instr) : Prop :=
  ∀ (cw : Word) (wdata : Data) (s : State) (rest : List HostEvent),
    fld cw 31 24 = op → s.inputs = .command ⟨cw, wdata⟩ :: rest →
    step s = if zeroes cw then exec (mk cw wdata) (taken s rest) else .next (refuses (taken s rest) 2)

/-- Opcode and must-be-zero bits of every row of the opcode map (R71, R72), written out as numbers. -/
def mbzTable : List (Nat × Nat) :=
  ([0x00, 0x51, 0x52, 0x53, 0x54, 0x55, 0x56, 0x57, 0x58, 0x60, 0x61, 0x62, 0x63, 0x64, 0x72, 0x77, 0x78, 0x79].map
    fun op => (op, 0xFFFFFF)) ++
  ([0x10, 0x14, 0x15, 0x16, 0x20, 0x21, 0x22, 0x23, 0x24, 0x25, 0x26, 0x27, 0x28, 0x29, 0x2A, 0x2B, 0x2C, 0x2D, 0x2E,
    0x2F, 0x30, 0x31, 0x32].map fun op => (op, 0x3FFFFF)) ++
  [(0x11, 0x3FFFF), (0x12, 0x3FFF00), (0x13, 0x7FF), (0x40, 0), (0x41, 0), (0x50, 0x1FFFF), (0x70, 0x3F0000),
    (0x71, 0x3F0000), (0x73, 0xFFFFF8), (0x74, 0xFFFFF8), (0x75, 0xFFFF80), (0x76, 0xFFFF80)]

/-- The opcode is one of the 53 of R72. -/
def assigned (cw : Word) : Bool := mbzTable.any fun r => r.1 == fld cw 31 24

/-- A must-be-zero bit of the word's format is set (R75). -/
def mbzSet (cw : Word) : Bool := mbzTable.any fun r => r.1 == fld cw 31 24 && cw.toNat &&& r.2 != 0

/-- A legal field holds a reserved enumerant (R75). -/
def reservedEnum (cw : Word) : Bool :=
  fld cw 31 24 == 0x11 && decide (5 ≤ fld cw 21 19) || fld cw 31 24 == 0x50 && decide (11 ≤ fld cw 23 20) ||
    (fld cw 31 24 == 0x70 || fld cw 31 24 == 0x71) && fld cw 23 22 == 3

/-- The bits of `wdata` the opcode reads (R73). -/
def wdataRead (op : Nat) : Data :=
  if op = 0x11 ∨ op = 0x50 then 0xFFFFFFFFFFFFFFFF#64
  else if op = 0x71 then 0xFF#64
  else if op = 0x74 then 0xFFFFFFFF#64
  else if op = 0x76 then 0x1FFFFFFFF#64
  else 0#64

/-- The code of `cerr` that R252 gives a command in a state, in the order of R253. -/
def errorOf (s : State) (cw : Word) : Nat :=
  if !assigned cw then 1
  else if mbzSet cw || reservedEnum cw then 2
  else if (fld cw 31 24 = 0x70 ∨ fld cw 31 24 = 0x71) ∧ 7500 ≤ fld cw 15 0 then 3
  else if fld cw 31 24 = 0x12 ∧ (s.slot (slotOf cw)).buf.length = 2047 then 3
  else if fld cw 31 24 = 0x60 ∧ s.phase = .run then 4
  else if (fld cw 31 24 = 0x61 ∨ fld cw 31 24 = 0x62) ∧ s.phase ≠ .run then 4
  else 0

/-! ### Packet kinds (spec/40_packet.md R110) -/

/-- The `ext` flag is 0 and the first byte is one of `pids`. -/
def pidIn (p : Packet) (pids : List Nat) : Bool := !p.ext && p.buf != [] && pids.contains (byteAt p 0)

/-- `K_TOKEN`. -/
def isToken (p : Packet) : Bool := pidIn p [0xE1, 0x69, 0x2D, 0xB4]
/-- `K_SOF`. -/
def isSof (p : Packet) : Bool := pidIn p [0xA5]
/-- `K_DATA`. -/
def isData (p : Packet) : Bool := pidIn p [0xC3, 0x4B, 0x87, 0x0F]
/-- `K_HANDSHAKE`. -/
def isHandshake (p : Packet) : Bool := pidIn p [0xD2, 0x5A, 0x1E, 0x96, 0x3C]
/-- `K_SPLIT`. -/
def isSplit (p : Packet) : Bool := pidIn p [0x78]
/-- `K_EXT`. -/
def isExt (p : Packet) : Bool := pidIn p [0xF0]
/-- `K_EXT2`. -/
def isExt2 (p : Packet) : Bool := p.ext && p.buf != []
/-- `K_INVALID`. -/
def isInvalid (p : Packet) : Bool :=
  p.buf != [] && !(isToken p || isSof p || isData p || isHandshake p || isSplit p || isExt p || isExt2 p)

/-- A packet that carries ADDR and ENDP (R123, R124). -/
def hasAddr (p : Packet) : Bool := (isToken p || isExt p) && decide (3 ≤ p.buf.length)
/-- A packet that carries the hub fields (R126 to R131). -/
def hasHub (p : Packet) : Bool := isSplit p && decide (4 ≤ p.buf.length)
/-- A kind whose CRC-5 covers 11 bits (spec/41_crc.md R153). -/
def is11 (p : Packet) : Bool := isToken p || isSof p || isExt p || isExt2 p
/-- A packet that carries a CRC-5 over 11 bits. -/
def has11 (p : Packet) : Bool := is11 p && decide (3 ≤ p.buf.length)
/-- A packet that carries a CRC-16 (R134). -/
def has16 (p : Packet) : Bool := isData p && decide (3 ≤ p.buf.length)

/-! ### The CRCs (spec/41_crc.md R150 to R152) -/

/-- The first form of R150 on numbers, up to the register. -/
def reg5 (bs : List Bool) : Nat :=
  bs.foldl (fun r b => if b ^^ r.testBit 4 then (2 * r % 32) ^^^ 0x05 else 2 * r % 32) 0x1F

/-- `bitrev_N(v)`: the `N`-bit value whose bit `i` is `v[N-1-i]` (R8). -/
def bitrev (n v : Nat) : Nat := Nat.ofBits fun i : Fin n => v.testBit (n - 1 - i)

/-- The second form of R150: no final reversal. -/
def crc5Of (bs : List Bool) : Nat :=
  bs.foldl (fun r b => if b ^^ r.testBit 0 then (r / 2) ^^^ 0x14 else r / 2) 0x1F ^^^ 0x1F

/-- The first form of R151 on numbers, up to the register. -/
def reg16 (bs : List Bool) : Nat :=
  bs.foldl (fun r b => if b ^^ r.testBit 15 then (2 * r % 65536) ^^^ 0x8005 else 2 * r % 65536) 0xFFFF

/-- The second form of R151: no final reversal. -/
def crc16Of (bs : List Bool) : Nat :=
  bs.foldl (fun r b => if b ^^ r.testBit 0 then (r / 2) ^^^ 0xA001 else r / 2) 0xFFFF ^^^ 0xFFFF

/-- `T16[x]` (R152): eight shifts of `x`. -/
def t16 (x : Nat) : Nat :=
  (List.range 8).foldl (fun v _ => if v.testBit 0 then (v / 2) ^^^ 0xA001 else v / 2) x

/-- The byte-parallel form of R152. -/
def crc16ByTable (ds : List Byte) : Nat :=
  ds.foldl (fun c d => (c / 256) ^^^ t16 ((c ^^^ d.toNat) % 256)) 0xFFFF ^^^ 0xFFFF

/-- The bits of a byte sequence, each byte low bit first. -/
def bitsOf (ds : List Byte) : List Bool := ds.flatMap fun d => (List.range 8).map fun i => d.toNat.testBit i

/-- The bits of an `n`-bit number, low bit first. -/
def lowFirst (n v : Nat) : List Bool := (List.range n).map v.testBit

/-- The stored CRC-5 as R132 reads it. -/
def stored5 (p : Packet) : Nat := if isSplit p then bits (le p 1 3) 23 19 else bits (le p 1 2) 15 11
/-- The CRC-5 recomputed over the covered bits (R133). -/
def computed5 (p : Packet) : Nat := crc5Of (stream p 1 (if isSplit p then 19 else 11))
/-- The stored CRC-16 (R134). -/
def stored16 (p : Packet) : Nat := le p (p.buf.length - 2) 2
/-- The CRC-16 recomputed over the payload (R135). -/
def computed16 (p : Packet) : Nat := crc16Of (stream p 1 (8 * (p.buf.length - 3)))

/-! ### Packet and element errors (spec/40_packet.md R136, spec/42_element.md R170, R178) -/

/-- The packet's length is not its kind's exact length, or a data packet is too short (R136, E_LEN). -/
def lenWrong (p : Packet) : Bool :=
  is11 p && p.buf.length != 3 || isHandshake p && p.buf.length != 1 || isSplit p && p.buf.length != 4 ||
    isData p && decide (p.buf.length < 3)

/-- A stored CRC that is there differs from the recomputed one (R136, E_CRC). -/
def crcWrong (p : Packet) : Bool :=
  (has11 p || hasHub p) && stored5 p != computed5 p || has16 p && stored16 p != computed16 p

/-- `pkt_errs` (R136) as a sum of its six bits. -/
def errsOf (p : Packet) : Nat :=
  (if isInvalid p then 1 else 0) + (if crcWrong p then 2 else 0) + (if lenWrong p then 4 else 0) +
    (if (isToken p || isExt p) && decide (p.buf.length < 3) then 8 else 0) +
    (if is11 p && decide (p.buf.length < 3) || isSplit p && decide (p.buf.length < 4) then 16 else 0) +
    (if isSplit p && decide (p.buf.length < 4) then 32 else 0)

/-- `cons(etype)` (R170). -/
def consOf : EType → List SlotId
  | .invalidPacket | .startOfFrame => [.spl]
  | .transaction => [.tok, .dat, .hsk]
  | .splitTransaction => [.spl, .tok, .dat, .hsk]
  | .lpmTransaction => [.tok, .spl, .hsk]
  | .reset | .suspended | .keepAlive | .powerChange | .highSpeedHandshake | .trigger => []

/-- The element types whose token slot carries the address (R175, R176). -/
def tokenTypes : List EType := [.transaction, .splitTransaction, .lpmTransaction]

/-- `P` of R178: the union of the constituents' error bits. -/
def constituentErrs (s : State) : Nat := (consOf s.etype).foldl (fun e k => e ||| errsOf (s.slot k)) 0

/-- `elm_errs()` (R178). -/
def elmErrsOf (s : State) : Nat :=
  s.estruct.toNat * 256 + (if constituentErrs s = 0 then 0 else 128) + constituentErrs s

/-- `elm_speed()` (R177): the tag of the first non-empty constituent. -/
def firstSpeed (s : State) : List SlotId → Speed
  | [] => .unknown
  | k :: ks => if (s.slot k).buf = [] then firstSpeed s ks else (s.slot k).speed

/-- The speed codes (spec/30_encoding.md R81). -/
def speedCode : Speed → Nat
  | .unknown => 0
  | .low => 1
  | .full => 2
  | .high => 3
  | .lowPrefixed => 4

/-- The element type codes (spec/30_encoding.md R82). -/
def etypeCode : EType → Nat
  | .invalidPacket => 0
  | .startOfFrame => 1
  | .transaction => 2
  | .splitTransaction => 3
  | .lpmTransaction => 4
  | .reset => 5
  | .suspended => 6
  | .keepAlive => 7
  | .powerChange => 8
  | .highSpeedHandshake => 9
  | .trigger => 10

/-- The phase codes (spec/30_encoding.md R87). -/
def phaseCode : Phase → Nat
  | .idle => 0
  | .run => 1
  | .done => 2

/-! ### The accumulator (spec/44_frame_decomposer.md) -/

/-- The PID of slot `k` is the byte `b`; an empty slot's PID is no byte (R207). -/
def pidIs (s : State) (k : SlotId) (b : Byte) : Bool := (s.slot k).buf.head? == some b

/-- `classify()` (R207). -/
def destination (s : State) : HistSel :=
  if pidIs s .hsk 0x5A#8 then .nak else if pidIs s .tok 0x69#8 then .inn else .out

/-- What `count` adds to counter `c` (R208). -/
def countOf (s : State) (c : Nat) : Nat :=
  (if c = 0 ∧ destination s = .inn then 1 else 0) + (if c = 1 ∧ destination s = .out then 1 else 0) +
  (if c = 2 ∧ destination s = .nak then 1 else 0) + (if c = 3 ∧ pidIs s .hsk 0xD2#8 then 1 else 0) +
  (if c = 4 ∧ pidIs s .tok 0x2D#8 then 1 else 0) + (if c = 5 ∧ pidIs s .tok 0xA5#8 then 1 else 0) +
  (if c = 6 ∧ pidIs s .dat 0xC3#8 then 1 else 0) + (if c = 7 ∧ pidIs s .dat 0x4B#8 then 1 else 0)

/-- `frame_ticks(speed)` (R211). -/
def frameTicks (v : Speed) : Nat := if v = .high then 7500 else 60000

/-- `factor(speed)` (R212). -/
def factor (v : Speed) : Nat := if v = .high then 1 else if v = .full then 5 else 40

/-- The first cell a packet covers (R211). -/
def position (origin : Time) (p : Packet) : Nat := (p.time.toNat - origin.toNat) * 7500 / frameTicks p.speed

/-- The packet is bucketed and covers cell `j` (R210 to R213). -/
def covers (origin : Time) (p : Packet) (j : Nat) : Bool :=
  p.buf != [] && p.speed != .unknown && decide (origin.toNat ≤ p.time.toNat) &&
    decide (position origin p ≤ j ∧ j < position origin p + (1 + p.buf.length) * factor p.speed ∧ j < 7500)

/-- How many of the packets in `ks` cover cell `j`. -/
def coverCount (s : State) (ks : List SlotId) (j : Nat) : Nat := ks.countP fun k => covers s.origin (s.slot k) j

/-- Cell `j` of histogram `h` as a number. -/
def cell (s : State) (h : HistSel) (j : Nat) : Nat := ((s.hist h).read j).toNat

/-- The forward event of R194. -/
def event (s : State) : ForwardEvent := ⟨s.etype, s.etime, s.estruct, (consOf s.etype).map s.slot⟩

/-- What every accepted push has in common (R200): slots, header and phase stay, one answer with `fwd = 1`, one
event with the values the header and slots had before. -/
structure Forwarded (s t : State) : Prop where
  slots     : t.slots = s.slots
  etype     : t.etype = s.etype
  etime     : t.etime = s.etime
  estruct   : t.estruct = s.estruct
  phase     : t.phase = s.phase
  inputs    : t.inputs = s.inputs
  responses : t.responses = s.responses ++ [⟨0#64, false, 0#3, true⟩]
  trace     : t.trace = s.trace ++ [event s]

/-- The device table after `track(a)` (R209): `none` and 0 track nothing. -/
structure Tracked (a : Option Nat) (s t : State) : Prop where
  last : t.lastDev.toNat = match a with
    | some (n + 1) => n + 1
    | _ => s.lastDev.toNat
  seen : ∀ d : BitVec 7, t.devseenAt d = (s.devseenAt d || decide (a = some d.toNat ∧ d.toNat ≠ 0))
  count : ∀ d : BitVec 7, (t.devcntAt d).toNat =
    ((s.devcntAt d).toNat + if a = some d.toNat ∧ d.toNat ≠ 0 then 1 else 0) % 2 ^ 32

/-- What a push of a transaction does to the accumulator: packets `ks` are bucketed into the histogram of R207, the
counters move as R208 says, device `a` is tracked, and the origin and the speed context stay (R203, R204). -/
structure Accumulated (ks : List SlotId) (a : Option Nat) (s t : State) : Prop where
  origin : t.origin = s.origin
  hs     : t.hs = s.hs
  cells  : ∀ h j, cell t h j =
    if h = destination s then min 255 (cell s h j + 10 * coverCount s ks j) else cell s h j
  counts : ∀ c : BitVec 3, (t.cntAt c).toNat = ((s.cntAt c).toNat + countOf s c.toNat) % 2 ^ 32
  device : Tracked a s t

/-- What `n` identical pushes of a transaction do to the cells, the counters, the origin and the speed context: packet
cover and counts as in `Accumulated`, `n` times (R208, R213, R214). -/
structure AccumulatedTimes (n : Nat) (ks : List SlotId) (s t : State) : Prop where
  origin : t.origin = s.origin
  hs     : t.hs = s.hs
  cells  : ∀ h j, cell t h j =
    if h = destination s then min 255 (cell s h j + 10 * n * coverCount s ks j) else cell s h j
  counts : ∀ c : BitVec 3, (t.cntAt c).toNat = ((s.cntAt c).toNat + n * countOf s c.toNat) % 2 ^ 32

/-- The address of the token in slot 1, if it has one (R175). -/
def tokenAddr (s : State) : Option Nat :=
  if hasAddr (s.slot .tok) then some (bits (le (s.slot .tok) 1 2) 6 0) else none

/-- The hub address of the split packet in slot 0, if it has one (R126). -/
def splitHub (s : State) : Option Nat :=
  if hasHub (s.slot .spl) then some (bits (le (s.slot .spl) 1 3) 6 0) else none

/-- Everything `zero_all` zeroes is 0 (R218). -/
structure Zeroed (t : State) : Prop where
  origin  : t.origin = 0#64
  hs      : t.hs = false
  lastDev : t.lastDev = 0#7
  cnt     : ∀ c, t.cntAt c = 0#32
  devcnt  : ∀ a, t.devcntAt a = 0#32
  devseen : ∀ a, t.devseenAt a = false
  cells   : ∀ h j, cell t h j = 0

/-- The accumulator's registers and cells are the same in both states (spec/10_state.md R34, without `phase`). -/
structure SameAccumulator (s t : State) : Prop where
  origin  : t.origin = s.origin
  hs      : t.hs = s.hs
  lastDev : t.lastDev = s.lastDev
  cnt     : t.cnt = s.cnt
  devcnt  : t.devcnt = s.devcnt
  devseen : t.devseen = s.devseen
  cells   : t.histIn = s.histIn ∧ t.histOut = s.histOut ∧ t.histNak = s.histNak

/-- Slots and element header are the same in both states. -/
structure SameElement (s t : State) : Prop where
  slots   : t.slots = s.slots
  etype   : t.etype = s.etype
  etime   : t.etime = s.etime
  estruct : t.estruct = s.estruct

/-- The decay of one cell (R215). -/
def decayed (c : Nat) : Nat := c - (c / 25 + 3)

/-- Every histogram is in canonical form (an invariant of the model: the statement `StepKeepsStorageOk`). -/
def Canonical (s : State) : Prop := ∀ h, (s.hist h).wf

/-- Slot `k` holds `p`; the other three slots and everything else are as in `s`. -/
def withSlot (s : State) (k : SlotId) (p : Packet) : State :=
  match k with
  | .spl => { s with slots := ⟨p, s.slots.tok, s.slots.dat, s.slots.hsk⟩ }
  | .tok => { s with slots := ⟨s.slots.spl, p, s.slots.dat, s.slots.hsk⟩ }
  | .dat => { s with slots := ⟨s.slots.spl, s.slots.tok, p, s.slots.hsk⟩ }
  | .hsk => { s with slots := ⟨s.slots.spl, s.slots.tok, s.slots.dat, p⟩ }

/-- The commands R56 names as reads. -/
def isRead : Instr → Bool
  | .nop | .pktRb _ _ | .pktLen _ | .pktTime _ | .pktAttr _ | .pktEmpty _ | .pktPid _ | .pktSubpid _ | .pktType _
  | .pktAddr _ | .pktEndp _ | .pktFrame _ | .pktHubaddr _ | .pktHubport _ | .pktSc _ | .pktS _ | .pktE _ | .pktEt _
  | .pktCrc5 _ | .pktCrc5c _ | .pktCrc16 _ | .pktCrc16c _ | .pktErrs _ | .pktValid _ | .crc5 _ _ _ | .crc16 _ _ _
  | .elmType | .elmTime | .elmEmpty | .elmAddr | .elmEndp | .elmSpeed | .elmErrs | .elmValid
  | .histRd _ _ | .cntRd _ | .devRd _ | .devLast | .statRd | .orgRd => true
  | .pktClr _ | .pktSet _ _ _ _ | .pktApp _ _ | .elmSet _ _ _ | .init | .final | .elmPush | .decay | .clear
  | .histWr _ _ _ | .histClr | .cntWr _ _ | .devWr _ _ _ => false

/-- The commands R56 names as idempotent writes. -/
def isIdempotentWrite : Instr → Bool
  | .pktClr _ | .pktSet _ _ _ _ | .elmSet _ _ _ | .clear | .histClr | .histWr _ _ _ | .cntWr _ _ | .devWr _ _ _ => true
  | .nop | .pktApp _ _ | .pktRb _ _ | .pktLen _ | .pktTime _ | .pktAttr _ | .pktEmpty _ | .pktPid _
  | .pktSubpid _ | .pktType _ | .pktAddr _ | .pktEndp _ | .pktFrame _ | .pktHubaddr _ | .pktHubport _
  | .pktSc _ | .pktS _ | .pktE _ | .pktEt _ | .pktCrc5 _ | .pktCrc5c _ | .pktCrc16 _ | .pktCrc16c _
  | .pktErrs _ | .pktValid _ | .crc5 _ _ _ | .crc16 _ _ _ | .elmType | .elmTime | .elmEmpty | .elmAddr
  | .elmEndp | .elmSpeed | .elmErrs | .elmValid | .init | .final | .elmPush | .decay | .histRd _ _ | .cntRd _
  | .devRd _ | .devLast | .statRd | .orgRd => false

/-- The least length of a packet's kind (spec/30_encoding.md R97). -/
def minLength (p : Packet) : Nat := if isHandshake p then 1 else if isSplit p then 4 else 3

/-- The histogram a legal select names (spec/30_encoding.md R83). -/
def selects (h : BitVec 2) : Option HistSel :=
  if h = 0#2 then some .inn else if h = 1#2 then some .out else if h = 2#2 then some .nak else none

/-- The commands R240 excludes between a write of counter `c` and its read. -/
def RewritesCounter (c : BitVec 3) (i : Instr) : Prop :=
  i = .elmPush ∨ i = .init ∨ i = .clear ∨ ∃ v, i = .cntWr c v

/-- The commands R240 excludes between a write of device entry `a` and its read. -/
def RewritesDevice (a : BitVec 7) (i : Instr) : Prop :=
  i = .elmPush ∨ i = .init ∨ i = .clear ∨ ∃ b v, i = .devWr a b v

/-- The commands R240 excludes between a write of cell `j` of histogram `x` and its read. -/
def RewritesCell (x : BitVec 2) (j : BitVec 16) (i : Instr) : Prop :=
  i = .elmPush ∨ i = .init ∨ i = .clear ∨ i = .decay ∨ i = .histClr ∨ ∃ v, i = .histWr x j v

end Sys2Proof.Stmt

section

open Sys2Proof Sys2Proof.Machine Sys2Proof.Stmt

/-! ## Encoding and decoding -/

/-- Decoding what the encoder gives for a well-formed command gives the command back, every operand included
(spec/30_encoding.md R70 to R73). -/
def Obligations.DecodeOfEncodeIsTheCommand : Prop :=
  ∀ i : Instr, i.wellFormed = true → decode (encode i) = .ok i

/-- A command that decodes is well formed, and encoding it rebuilds the command word and the write-data bits the
command reads; the write-data bits it ignores become 0 (spec/30_encoding.md R70, R71, R73). -/
def Obligations.EncodeOfDecodeIsTheWord : Prop :=
  ∀ (c : Command) (i : Instr), decode c = .ok i →
    i.wellFormed = true ∧ (encode i).cw = c.cw ∧ (encode i).wdata = c.wdata &&& wdataRead (fld c.cw 31 24)

/-- Two commands with one command word whose write data agree in the bits R73 lists for its opcode do the same,
whatever the other bits hold (spec/30_encoding.md R70, R73). -/
def Obligations.UnreadWriteDataHasNoEffect : Prop :=
  ∀ (s : State) (rest : List HostEvent) (cw : Word) (w v : Data),
    w &&& wdataRead (fld cw 31 24) = v &&& wdataRead (fld cw 31 24) →
    step { s with inputs := .command ⟨cw, w⟩ :: rest } = step { s with inputs := .command ⟨cw, v⟩ :: rest }

/-- R76: an opcode outside the table is answered with code 1 whatever the other bits hold; there are 203 such opcodes,
0xFF among them. -/
def Obligations.UnassignedOpcodesAnswerIllegalOp : Prop :=
  (∀ (s : State) (rest : List HostEvent) (cw : Word) (wdata : Data),
    s.inputs = .command ⟨cw, wdata⟩ :: rest → assigned cw = false → step s = .next (refuses (taken s rest) 1)) ∧
  ((List.range 256).filter fun op => !mbzTable.any fun r => r.1 == op).length = 203 ∧
  (∀ cw : Word, fld cw 31 24 = 0xFF → assigned cw = false)

/-- R75: an assigned opcode with a must-be-zero bit set or a reserved enumerant is answered with code 2; with neither,
the word is a command, so no other field has a reserved value. -/
def Obligations.ReservedFieldsAnswerReserved : Prop :=
  ∀ (s : State) (rest : List HostEvent) (cw : Word) (wdata : Data),
    s.inputs = .command ⟨cw, wdata⟩ :: rest → assigned cw = true →
    if mbzSet cw || reservedEnum cw then step s = .next (refuses (taken s rest) 2)
    else ∃ i, decode ⟨cw, wdata⟩ = .ok i ∧ step s = exec i (taken s rest)

/-- Words written out from the formats of R71 and the opcodes of R72 decode to the commands they stand for: one of
each format. -/
def Obligations.HandWrittenWordsDecode : Prop :=
  decode ⟨0b01010001_000000000000000000000000#32, 7#64⟩ = .ok .elmType ∧
  decode ⟨0b00010000_01_0000000000000000000000#32, 7#64⟩ = .ok (.pktClr .tok) ∧
  decode ⟨0b00010001_10_100_1_000000000000000000#32, 600#64⟩ = .ok (.pktSet .dat 4#3 true 600#64) ∧
  decode ⟨0b00010010_11_00000000000000_11010010#32, 7#64⟩ = .ok (.pktApp .hsk 0xD2#8) ∧
  decode ⟨0b00010011_00_10000000001_00000000000#32, 7#64⟩ = .ok (.pktRb .spl 1025#11) ∧
  decode ⟨0b01000001_10_00000000001_10000000100#32, 7#64⟩ = .ok (.crc16 .dat 1#11 1028#11) ∧
  decode ⟨0b01010000_0011_100_00000000000000000#32, 82400#64⟩ = .ok (.elmSet 3#4 4#3 82400#64) ∧
  decode ⟨0b01110001_01_000000_0001110101001011#32, 0x1FF#64⟩ = .ok (.histWr 1#2 7499#16 0xFF#8) ∧
  decode ⟨0b01110100_000000000000000000000_101#32, 0x1FFFFFFFF#64⟩ = .ok (.cntWr 5#3 0xFFFFFFFF#32) ∧
  decode ⟨0b01110110_00000000000000000_0010010#32, 0x300000007#64⟩ = .ok (.devWr 0x12#7 true 7#32)

/-- The step runs the command it decodes: the event at the head of the port is taken, the command is executed on that
state, and nothing else happens around it (spec/00_scope.md R13, spec/30_encoding.md R70). -/
def Obligations.StepRunsTheDecodedCommand : Prop :=
  ∀ (s : State) (c : Command) (rest : List HostEvent) (i : Instr),
    s.inputs = .command c :: rest → decode c = .ok i → step s = exec i { s with inputs := rest }

/-! ## The step and the command errors -/

/-- Every state has a next state; a command at the head of the port is taken, answered exactly once, and emits one
forward event exactly when its answer says so (spec/00_scope.md R9, R13; the lists of answers and of waiting events
are the model's own, log 1 and log 3). -/
def Obligations.EveryStepIsDefinedAndAnswersOnce : Prop :=
  (∀ s : State, ∃ t, step s = .next t) ∧
  ∀ (s : State) (c : Command) (rest : List HostEvent), s.inputs = .command c :: rest →
    ∃ t r, step s = .next t ∧ t.inputs = rest ∧ t.responses = s.responses ++ [r] ∧
      t.trace = s.trace ++ if r.fwd then [event s] else []

/-- R251: a command answered with a nonzero code leaves the state as it was, emits nothing, and its answer carries
nothing but the code. -/
def Obligations.RefusedCommandsChangeNothing : Prop :=
  ∀ (s t : State) (c : Command) (rest : List HostEvent) (r : Response),
    s.inputs = .command c :: rest → step s = .next t → t.responses = s.responses ++ [r] → r.cerr ≠ 0#3 →
    t = { s with inputs := rest, responses := s.responses ++ [r] } ∧ r.rdata = 0#64 ∧ r.unk = false ∧ r.fwd = false

/-- R252 and R253: the code of every answer is the one the table gives the command in that state, the first cause in
the order of the priority rule, and 0 where no cause holds. -/
def Obligations.ErrorCodeIsTheFirstCause : Prop :=
  ∀ (s : State) (cw : Word) (wdata : Data) (rest : List HostEvent), s.inputs = .command ⟨cw, wdata⟩ :: rest →
    ∃ t r, step s = .next t ∧ t.responses = s.responses ++ [r] ∧ r.cerr.toNat = errorOf s cw

/-! ## Reset, zeroing, invariants -/

/-- R46 and R271: what hardware reset, an accepted `INIT`, `CLEAR`, a pushed Reset element and `HIST.CLR` leave, and
when `INIT` and the push are accepted. (That reset also empties the list of answers is log 4 and is not stated here.) -/
def Obligations.ResetAndZeroingEvents : Prop :=
  (∀ (s : State) (rest : List HostEvent), s.inputs = .reset :: rest →
    ∃ t, step s = .next t ∧ Zeroed t ∧ t.phase = .idle ∧ t.etype = .invalidPacket ∧ t.etime = 0#64 ∧
      t.estruct = 0#3 ∧ (∀ k, t.slot k = ⟨[], 0#64, .unknown, false⟩) ∧ t.trace = []) ∧
  (∀ s : State, s.phase ≠ .run →
    ∃ t, exec .init s = .next t ∧ Zeroed t ∧ t.phase = .run ∧ SameElement s t ∧ t.trace = s.trace) ∧
  (∀ s : State, s.phase = .run → exec .init s = .next (refuses s 4)) ∧
  (∀ s : State,
    ∃ t, exec .clear s = .next t ∧ Zeroed t ∧ t.phase = s.phase ∧ SameElement s t ∧ t.trace = s.trace) ∧
  (∀ s : State, s.phase = .run → s.etype = .reset →
    ∃ t, exec .elmPush s = .next t ∧ Zeroed t ∧ t.phase = .run ∧ SameElement s t ∧ t.trace = s.trace ++ [event s]) ∧
  (∀ s : State, s.phase ≠ .run → exec .elmPush s = .next (refuses s 4)) ∧
  (∀ s : State,
    ∃ t, exec .histClr s = .next t ∧ (∀ h j, cell t h j = 0) ∧ t.origin = s.origin ∧ t.hs = s.hs ∧
      t.lastDev = s.lastDev ∧ t.cnt = s.cnt ∧ t.devcnt = s.devcnt ∧ t.devseen = s.devseen ∧ t.phase = s.phase ∧
      SameElement s t ∧ t.trace = s.trace)

/-- Every step keeps the storage invariant: packets fit their slots, histograms stay in canonical form and inside
their bounds (spec/10_state.md R21, R42, R47; the canonical form is the model's, log 5). -/
def Obligations.StepKeepsStorageOk : Prop :=
  ∀ s t : State, s.StorageOk → s.StepsTo t → t.StorageOk

/-- Every step keeps the outputs legal: an unknown answer carries no data, a refusal carries its code alone, no code
above 4 (spec/00_scope.md R9, spec/60_exceptions.md R251, R252), and as many forward events as answers that announce
one. The last clause counts over two lists that are the model's (log 3), and a step that resets the hardware keeps it only
because the model empties the list of answers together with the trace: the model's choice, log 4. -/
def Obligations.StepKeepsOutputsOk : Prop :=
  ∀ s t : State, s.OutputsOk → s.StepsTo t → t.OutputsOk

/-- The state after reset meets both invariants. That the list of answers is empty then is the model's choice (log 3),
and so is the canonical form (log 5). -/
def Obligations.ResetMeetsTheInvariants : Prop := State.reset.StorageOk ∧ State.reset.OutputsOk

/-- The last clause of R47: while the last tracked device is marked seen, no command but `DEV.WR` unmarks it without
forgetting it. -/
def Obligations.LastDeviceStaysSeen : Prop :=
  ∀ (i : Instr) (s t : State), (∀ a seen count, i ≠ .devWr a seen count) →
    (s.lastDev ≠ 0#7 → s.devseenAt s.lastDev = true) → exec i s = .next t →
    t.lastDev ≠ 0#7 → t.devseenAt t.lastDev = true

/-! ## Rules about all commands -/

/-- R56: a read leaves the whole state as it was and gives the same answer when issued twice; an idempotent write
issued twice leaves what it left once; `PKT.APP`, `ELM.PUSH` and `DECAY` are not idempotent. -/
def Obligations.ReadsHaveNoSideEffect : Prop :=
  (∀ (i : Instr) (s : State), isRead i = true →
    ∃ r : Response, exec i s = .next { s with responses := s.responses ++ [r] } ∧
      exec i { s with responses := s.responses ++ [r] } = .next { s with responses := s.responses ++ [r, r] }) ∧
  (∀ (i : Instr) (s t : State), isIdempotentWrite i = true → Canonical s → exec i s = .next t →
    ∃ r : Response, exec i t = .next { t with responses := t.responses ++ [r] }) ∧
  (∃ (k : SlotId) (b : Byte) (s t u : State), exec (.pktApp k b) s = .next t ∧ exec (.pktApp k b) t = .next u ∧
    u.slots ≠ t.slots) ∧
  (∃ s t u : State, exec .elmPush s = .next t ∧ exec .elmPush t = .next u ∧ u.cnt ≠ t.cnt) ∧
  (∃ s t u : State, exec .decay s = .next t ∧ exec .decay t = .next u ∧ u.histIn ≠ t.histIn)

/-- R275: only `PKT.CLR`, `PKT.SET`, `PKT.APP` change a slot and only `ELM.SET` the header; `FINAL` and every packet,
CRC and element command leave the accumulator; no command retracts an event. -/
def Obligations.SlotsAndHeaderSurvive : Prop :=
  ∀ (i : Instr) (s t : State), exec i s = .next t →
    ((∀ k, i ≠ .pktClr k) → (∀ k v x w, i ≠ .pktSet k v x w) → (∀ k b, i ≠ .pktApp k b) → t.slots = s.slots) ∧
    ((∀ e x w, i ≠ .elmSet e x w) → t.etype = s.etype ∧ t.etime = s.etime ∧ t.estruct = s.estruct) ∧
    (i ≠ .init → i ≠ .elmPush → i ≠ .decay → i ≠ .clear → (∀ h j v, i ≠ .histWr h j v) → i ≠ .histClr →
      (∀ c v, i ≠ .cntWr c v) → (∀ a b c, i ≠ .devWr a b c) → SameAccumulator s t) ∧
    (∃ ev, t.trace = s.trace ++ ev)

/-- R191: the phase moves only as the table says; a refused command changes nothing. -/
def Obligations.PhaseMachine : Prop :=
  (∀ s : State, s.phase ≠ .run → ∃ t, exec .init s = .next t ∧ t.phase = .run ∧ Zeroed t) ∧
  (∀ s : State, s.phase = .run → exec .init s = .next (refuses s 4)) ∧
  (∀ s : State, s.phase ≠ .run → exec .final s = .next (refuses s 4) ∧ exec .elmPush s = .next (refuses s 4)) ∧
  (∀ s : State, s.phase = .run → exec .final s = .next { answers s 0 with phase := .done }) ∧
  (∀ s : State, s.phase = .run → ∃ t, exec .elmPush s = .next t ∧ Forwarded s t) ∧
  (∀ (i : Instr) (s : State), i ≠ .init → i ≠ .final → i ≠ .elmPush → ∃ t r, exec i s = .next t ∧
    t.phase = s.phase ∧ t.responses = s.responses ++ [r] ∧ r.cerr ≠ 4#3) ∧
  (∀ (s : State) (rest : List HostEvent), s.inputs = .reset :: rest → ∃ t, step s = .next t ∧ t.phase = .idle)

/-- R34: each register of the accumulator changes only under the commands the table lists as its writers, and the
commands that zero everything. -/
def Obligations.AccumulatorWriters : Prop :=
  ∀ (i : Instr) (s t : State), exec i s = .next t → i ≠ .init → i ≠ .clear → (i = .elmPush → s.etype ≠ .reset) →
    (i = .elmPush ∧ (s.etype = .startOfFrame ∨ s.etype = .keepAlive) ∨ t.origin = s.origin ∧ t.hs = s.hs) ∧
    (i = .elmPush ∧ (s.etype = .transaction ∨ s.etype = .splitTransaction) ∨ t.lastDev = s.lastDev) ∧
    (∀ c, t.cntAt c ≠ s.cntAt c → i = .elmPush ∨ ∃ v, i = .cntWr c v) ∧
    (∀ a, t.devcntAt a ≠ s.devcntAt a ∨ t.devseenAt a ≠ s.devseenAt a →
      i = .elmPush ∧ a ≠ 0#7 ∨ ∃ b v, i = .devWr a b v) ∧
    (Canonical s → ∀ h j, cell t h j ≠ cell s h j →
      i = .elmPush ∨ i = .decay ∨ i = .histClr ∨ ∃ x y v, i = .histWr x y v ∧ y.toNat = j ∧ HistSel.ofCode? x = some h)

/-- R30: a pushed StartOfFrame element sets the speed context exactly when its speed is High, a pushed KeepAlive
clears it, the zeroing events clear it, and no command but `STAT.RD` lets it reach anything else. -/
def Obligations.SpeedContextIsReadByStatOnly : Prop :=
  (∀ s t : State, s.phase = .run → exec .elmPush s = .next t →
    (s.etype = .startOfFrame → t.hs = decide (firstSpeed s [.spl] = .high)) ∧
    (s.etype = .keepAlive ∨ s.etype = .reset → t.hs = false)) ∧
  (∀ s t : State, s.phase ≠ .run → exec .init s = .next t → t.hs = false) ∧
  (∀ s t : State, exec .clear s = .next t → t.hs = false) ∧
  (∀ (s t : State) (rest : List HostEvent), s.inputs = .reset :: rest → step s = .next t → t.hs = false) ∧
  (∀ (i : Instr) (s t : State) (b : Bool), i ≠ .statRd → exec i s = .next t →
    ∃ b', exec i { s with hs := b } = .next { t with hs := b' })

/-- R194: a push accepted emits one event with the header and the constituents as they were, each packet whole (length,
bytes, time, speed, flag); no other command and no refused push emits anything. -/
def Obligations.OnlyAcceptedPushesForward : Prop :=
  ∀ (i : Instr) (s : State),
    (i = .elmPush ∧ s.phase = .run → ∃ t, exec i s = .next t ∧ t.trace = s.trace ++ [event s] ∧
      t.responses = s.responses ++ [⟨0#64, false, 0#3, true⟩]) ∧
    (¬ (i = .elmPush ∧ s.phase = .run) → ∃ t r, exec i s = .next t ∧ t.trace = s.trace ∧
      t.responses = s.responses ++ [r] ∧ r.fwd = false)

/-! ## Packet commands -/

/-- R112 and R113: `PKT.CLR` empties the slot; `PKT.SET` empties it and gives it its attributes, and refuses the reserved
speeds. -/
def Obligations.PacketClearAndSet : Prop :=
  Coded 0x10 fmtS (fun cw _ => .pktClr (slotOf cw)) ∧
  Coded 0x11 fmtP (fun cw w => .pktSet (slotOf cw) (BitVec.ofNat 3 (fld cw 21 19)) (fld cw 18 18 == 1) w) ∧
  (∀ k s, exec (.pktClr k) s = .next (withSlot (answers s 0) k ⟨[], 0#64, .unknown, false⟩)) ∧
  (∀ k x w s (sp : Speed),
    exec (.pktSet k (BitVec.ofNat 3 (speedCode sp)) x w) s = .next (withSlot (answers s 0) k ⟨[], w, sp, x⟩)) ∧
  (∀ k (v : BitVec 3) x w s, 5 ≤ v.toNat → exec (.pktSet k v x w) s = .next (refuses s 2))

/-- R114: `PKT.APP` puts its byte at index `len` and refuses a full slot. -/
def Obligations.PacketAppend : Prop :=
  Coded 0x12 fmtA (fun cw _ => .pktApp (slotOf cw) (BitVec.ofNat 8 (fld cw 7 0))) ∧
  (∀ k b s, (s.slot k).buf.length ≠ 2047 → exec (.pktApp k b) s =
    .next (withSlot (answers s 0) k ⟨(s.slot k).buf ++ [b], (s.slot k).time, (s.slot k).speed, (s.slot k).ext⟩)) ∧
  (∀ k b s, (s.slot k).buf.length = 2047 → exec (.pktApp k b) s = .next (refuses s 3))

/-- R115 to R118: the raw reads of a slot. The length is answered whole for every packet a slot can hold. -/
def Obligations.PacketReadback : Prop :=
  Coded 0x13 fmtO (fun cw _ => .pktRb (slotOf cw) (BitVec.ofNat 11 (fld cw 21 11))) ∧
  Coded 0x14 fmtS (fun cw _ => .pktLen (slotOf cw)) ∧
  Coded 0x15 fmtS (fun cw _ => .pktTime (slotOf cw)) ∧
  Coded 0x16 fmtS (fun cw _ => .pktAttr (slotOf cw)) ∧
  (∀ k (off : BitVec 11) s, exec (.pktRb k off) s =
    .next (answersIf s (decide (off.toNat < (s.slot k).buf.length)) (byteAt (s.slot k) off.toNat))) ∧
  (∀ k s, (s.slot k).buf.length ≤ 2047 → exec (.pktLen k) s = .next (answers s (s.slot k).buf.length)) ∧
  (∀ k s, exec (.pktTime k) s = .next (answers s (s.slot k).time.toNat)) ∧
  (∀ k s, exec (.pktAttr k) s =
    .next (answers s (speedCode (s.slot k).speed + if (s.slot k).ext then 8 else 0)))

/-- R119, R120 and R122: emptiness, the first byte, and the type by the PID table, the flag overriding it. -/
def Obligations.PacketEmptyPidAndType : Prop :=
  Coded 0x20 fmtS (fun cw _ => .pktEmpty (slotOf cw)) ∧
  Coded 0x21 fmtS (fun cw _ => .pktPid (slotOf cw)) ∧
  Coded 0x23 fmtS (fun cw _ => .pktType (slotOf cw)) ∧
  ∀ (k : SlotId) (s : State),
    exec (.pktEmpty k) s = .next (answers s (if (s.slot k).buf = [] then 1 else 0)) ∧
    exec (.pktPid k) s = .next (answersIf s ((s.slot k).buf != []) (byteAt (s.slot k) 0)) ∧
    exec (.pktType k) s = .next (answers s
      (if isSof (s.slot k) then 0 else if isToken (s.slot k) then 1 else if isData (s.slot k) then 2
      else if isHandshake (s.slot k) then 3 else if isSplit (s.slot k) then 4
      else if isExt (s.slot k) || isExt2 (s.slot k) then 5 else 6))

/-- R123 to R125: address and endpoint of a token, frame number of a start-of-frame packet, from the little-endian word
after the PID. -/
def Obligations.PacketTokenAndFrameFields : Prop :=
  Coded 0x24 fmtS (fun cw _ => .pktAddr (slotOf cw)) ∧
  Coded 0x25 fmtS (fun cw _ => .pktEndp (slotOf cw)) ∧
  Coded 0x26 fmtS (fun cw _ => .pktFrame (slotOf cw)) ∧
  ∀ (k : SlotId) (s : State),
    exec (.pktAddr k) s = .next (answersIf s (hasAddr (s.slot k)) (bits (le (s.slot k) 1 2) 6 0)) ∧
    exec (.pktEndp k) s = .next (answersIf s (hasAddr (s.slot k)) (bits (le (s.slot k) 1 2) 10 7)) ∧
    exec (.pktFrame k) s = .next (answersIf s (isSof (s.slot k) && decide (3 ≤ (s.slot k).buf.length))
      (bits (le (s.slot k) 1 2) 10 0))

/-- R126 to R131: the six fields of a split packet, from the 24-bit word after the PID (the layout of R93). -/
def Obligations.PacketSplitFields : Prop :=
  Coded 0x27 fmtS (fun cw _ => .pktHubaddr (slotOf cw)) ∧
  Coded 0x28 fmtS (fun cw _ => .pktHubport (slotOf cw)) ∧
  Coded 0x29 fmtS (fun cw _ => .pktSc (slotOf cw)) ∧
  Coded 0x2A fmtS (fun cw _ => .pktS (slotOf cw)) ∧
  Coded 0x2B fmtS (fun cw _ => .pktE (slotOf cw)) ∧
  Coded 0x2C fmtS (fun cw _ => .pktEt (slotOf cw)) ∧
  ∀ (k : SlotId) (s : State),
    exec (.pktHubaddr k) s = .next (answersIf s (hasHub (s.slot k)) (bits (le (s.slot k) 1 3) 6 0)) ∧
    exec (.pktHubport k) s = .next (answersIf s (hasHub (s.slot k)) (bits (le (s.slot k) 1 3) 14 8)) ∧
    exec (.pktSc k) s = .next (answersIf s (hasHub (s.slot k)) (bits (le (s.slot k) 1 3) 7 7)) ∧
    exec (.pktS k) s = .next (answersIf s (hasHub (s.slot k)) (bits (le (s.slot k) 1 3) 15 15)) ∧
    exec (.pktE k) s = .next (answersIf s (hasHub (s.slot k)) (bits (le (s.slot k) 1 3) 16 16)) ∧
    exec (.pktEt k) s = .next (answersIf s (hasHub (s.slot k)) (bits (le (s.slot k) 1 3) 18 17))

/-- R132 and R134: the stored CRC fields. -/
def Obligations.PacketStoredCrcs : Prop :=
  Coded 0x2D fmtS (fun cw _ => .pktCrc5 (slotOf cw)) ∧
  Coded 0x2F fmtS (fun cw _ => .pktCrc16 (slotOf cw)) ∧
  ∀ (k : SlotId) (s : State),
    exec (.pktCrc5 k) s = .next (answersIf s (has11 (s.slot k) || hasHub (s.slot k)) (stored5 (s.slot k))) ∧
    exec (.pktCrc16 k) s = .next (answersIf s (has16 (s.slot k)) (stored16 (s.slot k)))

/-- R133 and R135: the CRCs recomputed from the raw bytes, over 11 or 19 bits after the PID or over the payload. -/
def Obligations.PacketComputedCrcs : Prop :=
  Coded 0x2E fmtS (fun cw _ => .pktCrc5c (slotOf cw)) ∧
  Coded 0x30 fmtS (fun cw _ => .pktCrc16c (slotOf cw)) ∧
  ∀ (k : SlotId) (s : State),
    exec (.pktCrc5c k) s = .next (answersIf s (has11 (s.slot k) || hasHub (s.slot k)) (computed5 (s.slot k))) ∧
    exec (.pktCrc16c k) s = .next (answersIf s (has16 (s.slot k)) (computed16 (s.slot k)))

/-- R111: each of the thirteen bit-field accessors listed, of a packet below its kind's minimum length, answers unknown,
and so does each of an invalid or absent packet. `PKT.PID` follows R120 and D22; for `PKT.SUBPID` see log 15. -/
def Obligations.ShortPacketsAnswerUnknown : Prop :=
  ∀ (k : SlotId) (s : State),
    (s.slot k).buf.length < minLength (s.slot k) ∨ isInvalid (s.slot k) = true →
    ∀ i ∈ [Instr.pktAddr k, .pktEndp k, .pktFrame k, .pktHubaddr k, .pktHubport k, .pktSc k, .pktS k, .pktE k, .pktEt k,
      .pktCrc5 k, .pktCrc5c k, .pktCrc16 k, .pktCrc16c k], exec i s = .next (unknown s)

/-- R136 to R138: the error set of a packet bit by bit, and validity as its emptiness. -/
def Obligations.PacketErrorsAndValidity : Prop :=
  Coded 0x31 fmtS (fun cw _ => .pktErrs (slotOf cw)) ∧
  Coded 0x32 fmtS (fun cw _ => .pktValid (slotOf cw)) ∧
  ∀ (k : SlotId) (s : State),
    exec (.pktErrs k) s = .next (answers s (errsOf (s.slot k))) ∧
    exec (.pktValid k) s = .next (answers s (if errsOf (s.slot k) = 0 then 1 else 0))

/-- The properties R136 derives: a CRC error only at or above the minimum length and a missing field only below it, a
missing field implies a length error, an invalid packet has exactly the PID error, a flagged packet never has it. -/
def Obligations.PacketErrorsExcludeEachOther : Prop :=
  ∀ p : Packet,
    (p.errs.getLsbD 1 = true → minLength p ≤ p.buf.length) ∧
    (p.errs.getLsbD 3 || p.errs.getLsbD 4 || p.errs.getLsbD 5 →
      p.buf.length < minLength p ∧ p.errs.getLsbD 2 = true ∧ p.errs.getLsbD 1 = false) ∧
    (isInvalid p = true → p.errs = 1#16) ∧
    (p.ext = true → p.errs.getLsbD 0 = false) ∧
    (∀ n, n = 6 ∨ 7 ≤ n → p.errs.getLsbD n = false)

/-! ## CRC engine and validator -/

/-- R153, the block's headline: a packet of exact length that carries a CRC is valid exactly when the stored field equals
the engine's result over the covered bits. -/
def Obligations.ValidatorComparesStoredAndComputed : Prop :=
  ∀ (k : SlotId) (s : State),
    (is11 (s.slot k) = true → (s.slot k).buf.length = 3 → exec (.pktValid k) s = .next (answers s
      (if bits (le (s.slot k) 1 2) 15 11 = crc5Of (stream (s.slot k) 1 11) then 1 else 0))) ∧
    (isSplit (s.slot k) = true → (s.slot k).buf.length = 4 → exec (.pktValid k) s = .next (answers s
      (if bits (le (s.slot k) 1 3) 23 19 = crc5Of (stream (s.slot k) 1 19) then 1 else 0))) ∧
    (isData (s.slot k) = true → 3 ≤ (s.slot k).buf.length → exec (.pktValid k) s = .next (answers s
      (if stored16 (s.slot k) = crc16Of (stream (s.slot k) 1 (8 * ((s.slot k).buf.length - 3))) then 1 else 0)))

/-- R154 and R155: the two CRC commands on any range of a packet; a range past its end is unknown, and no packet kind or
flag matters. -/
def Obligations.CrcCommandsOnAnyRange : Prop :=
  Coded 0x40 fmtR (fun cw _ =>
    .crc5 (slotOf cw) (BitVec.ofNat 11 (fld cw 21 11)) (BitVec.ofNat 11 (fld cw 10 0))) ∧
  Coded 0x41 fmtR (fun cw _ =>
    .crc16 (slotOf cw) (BitVec.ofNat 11 (fld cw 21 11)) (BitVec.ofNat 11 (fld cw 10 0))) ∧
  ∀ (k : SlotId) (off n : BitVec 11) (s : State),
    exec (.crc5 k off n) s =
      .next (answersIf s (decide (8 * off.toNat + n.toNat ≤ 8 * (s.slot k).buf.length))
        (crc5Of (stream (s.slot k) off.toNat n.toNat))) ∧
    exec (.crc16 k off n) s =
      .next (answersIf s (decide (off.toNat + n.toNat ≤ (s.slot k).buf.length))
        (crc16Of (stream (s.slot k) off.toNat (8 * n.toNat))))

/-- R150 and R151: the engine's functions are the register procedures of the rules, complemented and bit-reversed, and
equal the equivalent forms without the reversal, on every bit sequence. -/
def Obligations.CrcFormsAgree : Prop :=
  ∀ bs : List Bool,
    (crc5 bs).toNat = bitrev 5 (reg5 bs ^^^ 0x1F) ∧ (crc5 bs).toNat = crc5Of bs ∧ crc5Of bs < 32 ∧
    (crc16 bs).toNat = bitrev 16 (reg16 bs ^^^ 0xFFFF) ∧ (crc16 bs).toNat = crc16Of bs ∧ crc16Of bs < 65536

/-- R152: the byte-parallel form with the 256-entry table gives the serial engine's CRC-16 of every byte sequence, and
the table has the entries the rule lists. -/
def Obligations.CrcSixteenByTableAgrees : Prop :=
  (∀ ds : List Byte, (crc16 (bitsOf ds)).toNat = crc16ByTable ds) ∧
  t16 0 = 0x0000 ∧ t16 1 = 0xC0C1 ∧ t16 2 = 0xC181 ∧ t16 3 = 0x0140 ∧ t16 0x80 = 0xA001 ∧ t16 0xFF = 0x4040

/-- R157: running the register over a message followed by its CRC, low bit first, ends at a constant. -/
def Obligations.CrcResidualsAreConstant : Prop :=
  ∀ bs : List Bool,
    (crc5Register (bs ++ lowFirst 5 (crc5 bs).toNat)).toNat = 0x0C ∧
    (crc16Register (bs ++ lowFirst 16 (crc16 bs).toNat)).toNat = 0x800D

/-- R156 and R158: the engine's values on the empty range and on the small inputs the rules list. -/
def Obligations.CrcValuesOnSmallInputs : Prop :=
  crc5 [] = 0x00#5 ∧ crc16 [] = 0x0000#16 ∧
  crc5 (List.replicate 11 false) = 0x02#5 ∧ crc5 (List.replicate 11 true) = 0x08#5 ∧
  crc5 (List.replicate 19 false) = 0x1D#5 ∧ crc5 (List.replicate 19 true) = 0x0F#5 ∧
  crc5 [false] = 0x04#5 ∧ crc5 [true] = 0x10#5 ∧
  crc16 (bitsOf [0x00#8]) = 0xBF40#16 ∧ crc16 (bitsOf [0xFF#8]) = 0xFF00#16 ∧
  crc16 (bitsOf [0x00#8, 0x01#8, 0x02#8, 0x03#8]) = 0x7AEF#16 ∧
  crc16 (bitsOf [0x23#8, 0x45#8, 0x67#8, 0x89#8]) = 0x1C0E#16 ∧
  crc16 (bitsOf [0x31#8, 0x32#8, 0x33#8, 0x34#8, 0x35#8, 0x36#8, 0x37#8, 0x38#8, 0x39#8]) = 0xB4C8#16 ∧
  crc5 (bitsOf [0x31#8, 0x32#8, 0x33#8, 0x34#8, 0x35#8, 0x36#8, 0x37#8, 0x38#8, 0x39#8]) = 0x19#5

/-! ## Element commands -/

/-- R171: `ELM.SET` writes the header and nothing else, and refuses the reserved types. -/
def Obligations.ElementSet : Prop :=
  Coded 0x50 fmtE (fun cw w => .elmSet (BitVec.ofNat 4 (fld cw 23 20)) (BitVec.ofNat 3 (fld cw 19 17)) w) ∧
  (∀ (e : EType) x w s, exec (.elmSet (BitVec.ofNat 4 (etypeCode e)) x w) s =
    .next { answers s 0 with etype := e, estruct := x, etime := w }) ∧
  (∀ (v : BitVec 4) x w s, 11 ≤ v.toNat → exec (.elmSet v x w) s = .next (refuses s 2))

/-- R172 and R173: the type tag and the timestamp. -/
def Obligations.ElementTypeAndTime : Prop :=
  Coded 0x51 fmtN (fun _ _ => .elmType) ∧ Coded 0x52 fmtN (fun _ _ => .elmTime) ∧
  ∀ s : State, exec .elmType s = .next (answers s (etypeCode s.etype)) ∧
    exec .elmTime s = .next (answers s s.etime.toNat)

/-- R174 and R177: an element is empty when all its constituents are, and a type without packets answers unknown; its
speed is that of the first non-empty constituent in the order of the type's list, else code 0, never unknown. -/
def Obligations.ElementEmptinessAndSpeed : Prop :=
  Coded 0x53 fmtN (fun _ _ => .elmEmpty) ∧ Coded 0x56 fmtN (fun _ _ => .elmSpeed) ∧
  ∀ s : State,
    exec .elmEmpty s = .next (answersIf s (consOf s.etype != [])
      (if (∀ k ∈ consOf s.etype, (s.slot k).buf = []) then 1 else 0)) ∧
    exec .elmSpeed s = .next (answers s (speedCode (firstSpeed s (consOf s.etype))))

/-- R175 and R176: address and endpoint come from the token in slot 1 for the three transaction types and are unknown
for the others. -/
def Obligations.ElementAddressAndEndpoint : Prop :=
  Coded 0x54 fmtN (fun _ _ => .elmAddr) ∧ Coded 0x55 fmtN (fun _ _ => .elmEndp) ∧
  ∀ s : State,
    exec .elmAddr s = .next (answersIf s (decide (s.etype ∈ tokenTypes) && hasAddr (s.slot .tok))
      (bits (le (s.slot .tok) 1 2) 6 0)) ∧
    exec .elmEndp s = .next (answersIf s (decide (s.etype ∈ tokenTypes) && hasAddr (s.slot .tok))
      (bits (le (s.slot .tok) 1 2) 10 7))

/-- R178 to R180: the element's error set and validity, with the properties the rule derives. -/
def Obligations.ElementErrorsAndValidity : Prop :=
  Coded 0x57 fmtN (fun _ _ => .elmErrs) ∧ Coded 0x58 fmtN (fun _ _ => .elmValid) ∧
  ∀ s : State,
    exec .elmErrs s = .next (answers s (elmErrsOf s)) ∧
    exec .elmValid s = .next (answers s (if elmErrsOf s = 0 then 1 else 0)) ∧
    (bits (elmErrsOf s) 7 7 = 1 ↔ bits (elmErrsOf s) 5 0 ≠ 0) ∧
    ((∀ k ∈ consOf s.etype, (s.slot k).buf = []) → elmErrsOf s = s.estruct.toNat * 256) ∧
    bits (elmErrsOf s) 10 8 = s.estruct.toNat ∧ bits (elmErrsOf s) 6 6 = 0 ∧ bits (elmErrsOf s) 15 11 = 0

/-! ## Sink chain commands -/

/-- R192, R193 and R195: `INIT`, `FINAL` and `NOP`, with the phases in which they are refused. -/
def Obligations.LifecycleCommands : Prop :=
  Coded 0x00 fmtN (fun _ _ => .nop) ∧ Coded 0x60 fmtN (fun _ _ => .init) ∧ Coded 0x61 fmtN (fun _ _ => .final) ∧
  (∀ s : State, exec .nop s = .next (answers s 0)) ∧
  (∀ s : State, s.phase = .run → exec .init s = .next (refuses s 4)) ∧
  (∀ s : State, s.phase ≠ .run → ∃ t, exec .init s = .next t ∧ Zeroed t ∧ t.phase = .run ∧ SameElement s t ∧
    t.inputs = s.inputs ∧ t.trace = s.trace ∧ t.responses = (answers s 0).responses) ∧
  (∀ s : State, s.phase = .run → exec .final s = .next { answers s 0 with phase := .done }) ∧
  (∀ s : State, s.phase ≠ .run → exec .final s = .next (refuses s 4))

/-! ## Accumulator commands -/

/-- R201 and R202: a StartOfFrame element sets origin and speed context and counts one SOF; a KeepAlive element sets the
origin and clears the speed context; neither touches anything else. -/
def Obligations.PushOfFrameMarkers : Prop :=
  ∀ s : State, s.phase = .run →
    (s.etype = .startOfFrame → ∃ t, exec .elmPush s = .next t ∧ Forwarded s t ∧ t.origin = s.etime ∧
      t.hs = decide (firstSpeed s [.spl] = .high) ∧ t.lastDev = s.lastDev ∧ t.devcnt = s.devcnt ∧
      t.devseen = s.devseen ∧ (∀ h j, cell t h j = cell s h j) ∧
      ∀ c : BitVec 3, (t.cntAt c).toNat = if c = 5#3 then ((s.cntAt c).toNat + 1) % 2 ^ 32 else (s.cntAt c).toNat) ∧
    (s.etype = .keepAlive → ∃ t, exec .elmPush s = .next t ∧ Forwarded s t ∧ t.origin = s.etime ∧ t.hs = false ∧
      t.lastDev = s.lastDev ∧ t.devcnt = s.devcnt ∧ t.devseen = s.devseen ∧ t.cnt = s.cnt ∧
      ∀ h j, cell t h j = cell s h j)

/-- R205 and R206: a Reset element zeroes the accumulator and is forwarded; the six other types change nothing and are
forwarded. The coding of `ELM.PUSH` and its refusal outside `RUN` are those of R200. -/
def Obligations.PushOfResetAndOthers : Prop :=
  Coded 0x62 fmtN (fun _ _ => .elmPush) ∧
  ∀ s : State,
    (s.phase ≠ .run → exec .elmPush s = .next (refuses s 4)) ∧
    (s.phase = .run → s.etype = .reset → ∃ t, exec .elmPush s = .next t ∧ Forwarded s t ∧ Zeroed t) ∧
    (s.phase = .run →
      s.etype ∈ [EType.invalidPacket, .lpmTransaction, .suspended, .powerChange, .highSpeedHandshake, .trigger] →
      ∃ t, exec .elmPush s = .next t ∧ Forwarded s t ∧ SameAccumulator s t)

/-- R203, R204 and R207 to R213: a pushed Transaction buckets token, data and handshake, a pushed SplitTransaction the
split packet as well, into the one histogram of its classification; the counters move, the token's address or the hub is
tracked, and every other cell and register stays. A cell under several packets gets one weight for each. -/
def Obligations.PushOfTransactions : Prop :=
  ∀ s : State, s.phase = .run → Canonical s →
    (s.etype = .transaction →
      ∃ t, exec .elmPush s = .next t ∧ Forwarded s t ∧ Accumulated [.tok, .dat, .hsk] (tokenAddr s) s t) ∧
    (s.etype = .splitTransaction →
      ∃ t, exec .elmPush s = .next t ∧ Forwarded s t ∧ Accumulated [.spl, .tok, .dat, .hsk] (splitHub s) s t)

/-- After `n` identical pushes of a Transaction or of a SplitTransaction a covered cell holds the saturated sum of its old
value and `n` weights per covering packet, and the counters have counted `n` times, modulo `2^32` (R208, R213, R214). -/
def Obligations.RepeatedPushesSaturate : Prop :=
  ∀ (n : Nat) (s : State), s.phase = .run → Canonical s →
    (s.etype = .transaction →
      ∃ t, execAll (List.replicate n .elmPush) s = .next t ∧ AccumulatedTimes n [.tok, .dat, .hsk] s t) ∧
    (s.etype = .splitTransaction →
      ∃ t, execAll (List.replicate n .elmPush) s = .next t ∧ AccumulatedTimes n [.spl, .tok, .dat, .hsk] s t)

/-- R215: `DECAY` reduces every cell of the three histograms by `c div 25 + 3`, floored at 0, and nothing else. -/
def Obligations.DecayReducesEveryCell : Prop :=
  Coded 0x63 fmtN (fun _ _ => .decay) ∧
  ∀ s : State, Canonical s → ∃ t, exec .decay s = .next t ∧ (∀ h j, cell t h j = decayed (cell s h j)) ∧
    SameElement s t ∧ t.phase = s.phase ∧ t.origin = s.origin ∧ t.hs = s.hs ∧ t.lastDev = s.lastDev ∧
    t.cnt = s.cnt ∧ t.devcnt = s.devcnt ∧ t.devseen = s.devseen ∧ t.inputs = s.inputs ∧ t.trace = s.trace ∧
    t.responses = (answers s 0).responses

/-- R216: the decay step of a cell is monotone, strictly lowers every cell but 0, has the values the rule lists, and
forty `DECAY` commands bring every cell of every state to 0, while thirty-nine leave a cell at 255 above 0. -/
def Obligations.FortyDecaysReachZero : Prop :=
  (∀ a b : Byte, a.toNat ≤ b.toNat → (decayCell a).toNat ≤ (decayCell b).toNat) ∧
  (∀ c : Byte, (decayCell c).toNat = if c.toNat ≤ 3 then 0 else c.toNat - 3 - c.toNat / 25) ∧
  (∀ c : Byte, decayCell c = c ↔ c = 0#8) ∧
  [4, 24, 25, 26, 50, 100, 127, 128, 200, 254, 255].map (fun c => (decayCell (BitVec.ofNat 8 c)).toNat) =
    [1, 21, 21, 22, 45, 93, 119, 120, 189, 241, 242] ∧
  (∀ s : State, Canonical s → ∃ t, execAll (List.replicate 40 .decay) s = .next t ∧ ∀ h j, cell t h j = 0) ∧
  (∀ (s : State) (h : HistSel) (j : Nat), Canonical s → cell s h j = 255 →
    ∃ t, execAll (List.replicate 39 .decay) s = .next t ∧ cell t h j ≠ 0)

/-- R217 and R218: `CLEAR` zeroes everything `zero_all` names, in every phase, and leaves phase, slots and header. -/
def Obligations.ClearZeroesTheAccumulator : Prop :=
  Coded 0x64 fmtN (fun _ _ => .clear) ∧
  ∀ s : State, ∃ t, exec .clear s = .next t ∧ Zeroed t ∧ SameElement s t ∧ t.phase = s.phase ∧
    t.inputs = s.inputs ∧ t.trace = s.trace ∧ t.responses = (answers s 0).responses

/-! ## State transfer commands -/

/-- R230 to R232: reading and writing one cell, with the reserved select reported before the range, and clearing the
three histograms alone. -/
def Obligations.HistogramReadWriteClear : Prop :=
  Coded 0x70 fmtH (fun cw _ => .histRd (BitVec.ofNat 2 (fld cw 23 22)) (BitVec.ofNat 16 (fld cw 15 0))) ∧
  Coded 0x71 fmtH (fun cw w =>
    .histWr (BitVec.ofNat 2 (fld cw 23 22)) (BitVec.ofNat 16 (fld cw 15 0)) (BitVec.ofNat 8 (bits w.toNat 7 0))) ∧
  Coded 0x72 fmtN (fun _ _ => .histClr) ∧
  (∀ (j : BitVec 16) (v : Byte) (s : State),
    exec (.histRd 3#2 j) s = .next (refuses s 2) ∧ exec (.histWr 3#2 j v) s = .next (refuses s 2)) ∧
  (∀ (x : BitVec 2) (h : HistSel) (j : BitVec 16) (v : Byte) (s : State), selects x = some h →
    (7500 ≤ j.toNat → exec (.histRd x j) s = .next (refuses s 3) ∧ exec (.histWr x j v) s = .next (refuses s 3)) ∧
    (j.toNat < 7500 → exec (.histRd x j) s = .next (answers s (cell s h j.toNat))) ∧
    (j.toNat < 7500 → Canonical s → ∃ t, exec (.histWr x j v) s = .next t ∧
      (∀ g n, cell t g n = if g = h ∧ n = j.toNat then v.toNat else cell s g n) ∧
      t = { answers s 0 with histIn := t.histIn, histOut := t.histOut, histNak := t.histNak })) ∧
  (∀ s : State, ∃ t, exec .histClr s = .next t ∧ (∀ h j, cell t h j = 0) ∧
    t = { answers s 0 with histIn := t.histIn, histOut := t.histOut, histNak := t.histNak })

/-- R233 and R234: reading and writing one whole counter. -/
def Obligations.CounterReadWrite : Prop :=
  Coded 0x73 fmtK (fun cw _ => .cntRd (BitVec.ofNat 3 (fld cw 2 0))) ∧
  Coded 0x74 fmtK (fun cw w => .cntWr (BitVec.ofNat 3 (fld cw 2 0)) (BitVec.ofNat 32 (bits w.toNat 31 0))) ∧
  ∀ (c : BitVec 3) (v : Word) (s : State),
    exec (.cntRd c) s = .next (answers s (s.cnt[c.toNat]).toNat) ∧
    ∃ t, exec (.cntWr c v) s = .next t ∧ t = { answers s 0 with cnt := t.cnt } ∧
      ∀ d : BitVec 3, t.cnt[d.toNat] = if d = c then v else s.cnt[d.toNat]

/-- R235 and R236: reading a device entry as one pair and writing its two parts independently; `last_dev` stays. -/
def Obligations.DeviceReadWrite : Prop :=
  Coded 0x75 fmtD (fun cw _ => .devRd (BitVec.ofNat 7 (fld cw 6 0))) ∧
  Coded 0x76 fmtD (fun cw w =>
    .devWr (BitVec.ofNat 7 (fld cw 6 0)) (bits w.toNat 32 32 == 1) (BitVec.ofNat 32 (bits w.toNat 31 0))) ∧
  ∀ (a : BitVec 7) (b : Bool) (v : Word) (s : State),
    exec (.devRd a) s =
      .next (answers s ((if s.devseen[a.toNat] then 2 ^ 32 else 0) + (s.devcnt[a.toNat]).toNat)) ∧
    ∃ t, exec (.devWr a b v) s = .next t ∧ t = { answers s 0 with devcnt := t.devcnt, devseen := t.devseen } ∧
      (∀ d : BitVec 7, t.devcnt[d.toNat] = if d = a then v else s.devcnt[d.toNat]) ∧
      ∀ d : BitVec 7, t.devseen[d.toNat] = if d = a then b else s.devseen[d.toNat]

/-- R237 to R239: the three status reads. -/
def Obligations.StatusReads : Prop :=
  Coded 0x77 fmtN (fun _ _ => .devLast) ∧ Coded 0x78 fmtN (fun _ _ => .statRd) ∧ Coded 0x79 fmtN (fun _ _ => .orgRd) ∧
  ∀ s : State,
    exec .devLast s = .next (answers s s.lastDev.toNat) ∧
    exec .statRd s = .next (answers s (phaseCode s.phase + if s.hs then 4 else 0)) ∧
    exec .orgRd s = .next (answers s s.origin.toNat)

/-- R240: what a write stored is what the read answers, whatever commands stand between, if none of them is one the
rule excludes; and writes to different elements commute. -/
def Obligations.WriteThenReadRoundTrip : Prop :=
  ∀ (is : List Instr) (s : State), Canonical s →
    (∀ (a : BitVec 7) (b : Bool) (v : Word), (∀ i ∈ is, ¬ RewritesDevice a i) →
      ∃ t, execAll (.devWr a b v :: is) s = .next t ∧
        exec (.devRd a) t = .next (answers t ((if b then 2 ^ 32 else 0) + v.toNat))) ∧
    (∀ (c : BitVec 3) (v : Word), (∀ i ∈ is, ¬ RewritesCounter c i) →
      ∃ t, execAll (.cntWr c v :: is) s = .next t ∧ exec (.cntRd c) t = .next (answers t v.toNat)) ∧
    (∀ (x : BitVec 2) (j : BitVec 16) (v : Byte), x ≠ 3#2 → j.toNat < 7500 →
      (∀ i ∈ is, ¬ RewritesCell x j i) →
      ∃ t, execAll (.histWr x j v :: is) s = .next t ∧ exec (.histRd x j) t = .next (answers t v.toNat)) ∧
    (∀ (a b : BitVec 7) x v y w, a ≠ b →
      execAll [.devWr a x v, .devWr b y w] s = execAll [.devWr b y w, .devWr a x v] s) ∧
    (∀ (c d : BitVec 3) v w, c ≠ d → execAll [.cntWr c v, .cntWr d w] s = execAll [.cntWr d w, .cntWr c v] s) ∧
    (∀ (a : BitVec 7) b v (c : BitVec 3) w,
      execAll [.devWr a b v, .cntWr c w] s = execAll [.cntWr c w, .devWr a b v] s) ∧
    (∀ (a : BitVec 7) b v (x : BitVec 2) (j : BitVec 16) w, x ≠ 3#2 → j.toNat < 7500 →
      execAll [.devWr a b v, .histWr x j w] s = execAll [.histWr x j w, .devWr a b v] s) ∧
    (∀ (c : BitVec 3) v (x : BitVec 2) (j : BitVec 16) w, x ≠ 3#2 → j.toNat < 7500 →
      execAll [.cntWr c v, .histWr x j w] s = execAll [.histWr x j w, .cntWr c v] s) ∧
    (∀ (x y : BitVec 2) (m n : BitVec 16) v w, x ≠ 3#2 → y ≠ 3#2 → m.toNat < 7500 → n.toNat < 7500 →
      (x ≠ y ∨ m ≠ n) → execAll [.histWr x m v, .histWr y n w] s = execAll [.histWr y n w, .histWr x m v] s)

/-! ## Pseudo-commands -/

/-- The pseudo-command `PKT.LOAD` of R80 leaves the slot holding exactly the packet given, whatever it held, for every
byte list a slot can hold, and answers once per command of its expansion with nothing in the answers. -/
def Obligations.PacketLoadBuildsThePacket : Prop :=
  ∀ (k : SlotId) (v : BitVec 3) (sp : Speed) (x : Bool) (w : Time) (bytes : List Byte) (s : State),
    v.toNat = speedCode sp → bytes.length ≤ 2047 →
    execAll (pktLoad k v x w bytes) s = .next
      (withSlot { s with responses := s.responses ++ List.replicate (bytes.length + 1) ⟨0#64, false, 0#3, false⟩ } k
        ⟨bytes, w, sp, x⟩)

/-- R241 with the expansions of R80: after a bulk write of a histogram, of the counters or of the device table the bulk
read answers the values written, in order. -/
def Obligations.BulkWriteThenBulkRead : Prop :=
  ∀ s : State, Canonical s →
    (∀ (x : BitVec 2) (vs : List Byte), x ≠ 3#2 → vs.length = 7500 →
      ∃ t u, execAll (histPut x vs) s = .next t ∧ execAll (histGet x) t = .next u ∧
        u.responses = t.responses ++ vs.map fun v => (⟨BitVec.ofNat 64 v.toNat, false, 0#3, false⟩ : Response)) ∧
    (∀ vs : List Word, vs.length = 8 →
      ∃ t u, execAll (cntSetAll vs) s = .next t ∧ execAll cntGetAll t = .next u ∧
        u.responses = t.responses ++ vs.map fun v => (⟨BitVec.ofNat 64 v.toNat, false, 0#3, false⟩ : Response)) ∧
    (∀ es : List (Bool × Word), es.length = 128 →
      ∃ t u, execAll (devSetAll es) s = .next t ∧ execAll devGetAll t = .next u ∧
        u.responses = t.responses ++ es.map fun e =>
          (⟨BitVec.ofNat 64 ((if e.1 then 2 ^ 32 else 0) + e.2.toNat), false, 0#3, false⟩ : Response))

/-! ## A point on which the spec's rules disagree -/

/-- `PKT.SUBPID` answers the first byte of a flagged packet that has one, and unknown otherwise. For a flagged packet of
1 or 2 bytes this is the model's choice, log 15 (DEDUCED): it follows the formula of R121 by the order of authority of
spec/90_conflicts.md, where R254's first row, R111 and D22 read otherwise. -/
def Obligations.PacketSubPid : Prop :=
  Coded 0x22 fmtS (fun cw _ => .pktSubpid (slotOf cw)) ∧
  ∀ (k : SlotId) (s : State),
    exec (.pktSubpid k) s = .next (answersIf s ((s.slot k).ext && (s.slot k).buf != []) (byteAt (s.slot k) 0))

end
end

