-- ==== Sys2Proof/Laws/Memory.lean ====
section
/-! SUPPORT. What the memory operations do: each one's reads, and that each keeps the canonical form and the bounds. -/

namespace Sys2Proof.Machine

namespace Memory

/-! ### The canonical form -/

/-- A listed head: everything after it lies above it, its value is listed for a reason, the rest is canonical. -/
theorem wf_cons_iff {a : Nat} {b : Byte} {m : Memory} :
    Memory.wf ((a, b) :: m) ↔ (∀ x ∈ m, a < x.1) ∧ b ≠ Config.blankCell ∧ Memory.wf m := by
  simp only [Memory.wf, List.pairwise_cons, List.forall_mem_cons]
  tauto

@[simp] theorem wf_nil : Memory.wf ([] : Memory) := by simp [Memory.wf]

@[simp] theorem inBounds_nil : Memory.inBounds ([] : Memory) := by simp [Memory.inBounds]

/-! ### Reading -/

@[simp] theorem read_nil (j : Nat) : Memory.read [] j = Config.blankCell := rfl

theorem read_listed (a : Nat) (b : Byte) (m : Memory) (j : Nat) :
    Memory.read ((a, b) :: m) j = if a = j then b else Memory.read m j := rfl

/-- A cell no pair lists reads as the blank value. -/
theorem read_unlisted {m : Memory} {j : Nat} (h : ∀ x ∈ m, x.1 ≠ j) : Memory.read m j = Config.blankCell := by
  induction m with
  | nil => rfl
  | cons x m ih =>
    obtain ⟨a, b⟩ := x
    rw [read_listed, if_neg (h (a, b) (by simp)), ih fun y hy => h y (by simp [hy])]

/-- `cons` above the rest: the new cell reads as written, every other as before. -/
theorem read_cons {i : Nat} {v : Byte} {m : Memory} (h : ∀ x ∈ m, i < x.1) (j : Nat) :
    Memory.read (Memory.cons i v m) j = if i = j then v else Memory.read m j := by
  unfold Memory.cons
  split
  · rename_i hv
    split
    · rename_i hij
      subst hij
      rw [hv, read_unlisted fun x hx => (h x hx).ne']
    · rfl
  · rw [read_listed]

theorem mem_cons_imp {i : Nat} {v : Byte} {m : Memory} {x : Host.Cell} (h : x ∈ Memory.cons i v m) :
    x = (i, v) ∨ x ∈ m := by
  unfold Memory.cons at h
  split at h
  · exact .inr h
  · simpa using h

theorem wf_cons {i : Nat} {v : Byte} {m : Memory} (h : ∀ x ∈ m, i < x.1) (hm : Memory.wf m) :
    Memory.wf (Memory.cons i v m) := by
  unfold Memory.cons
  split
  · exact hm
  · exact wf_cons_iff.2 ⟨h, ‹_›, hm⟩

/-! ### Writing one cell -/

theorem mem_write_imp {m : Memory} {i : Nat} {v : Byte} {x : Host.Cell} (h : x ∈ Memory.write m i v) :
    x.1 = i ∨ x ∈ m := by
  induction m with
  | nil =>
    rcases mem_cons_imp h with rfl | h
    · exact .inl rfl
    · simp at h
  | cons y m ih =>
    obtain ⟨a, b⟩ := y
    unfold Memory.write at h
    split at h
    · rcases mem_cons_imp h with rfl | h
      · exact .inl rfl
      · exact .inr h
    · split at h
      · rcases mem_cons_imp h with rfl | h
        · exact .inl rfl
        · exact .inr (by simp [h])
      · rcases List.mem_cons.1 h with rfl | h
        · exact .inr (by simp)
        · rcases ih h with h | h
          · exact .inl h
          · exact .inr (by simp [h])

/-- A write keeps the canonical form. -/
theorem wf_write {m : Memory} (hm : Memory.wf m) (i : Nat) (v : Byte) : Memory.wf (Memory.write m i v) := by
  induction m with
  | nil => exact wf_cons (by simp) hm
  | cons y m ih =>
    obtain ⟨a, b⟩ := y
    obtain ⟨ha, hb, hm'⟩ := wf_cons_iff.1 hm
    unfold Memory.write
    split
    · rename_i hia
      refine wf_cons (fun x hx => ?_) hm
      rcases List.mem_cons.1 hx with rfl | hx
      · exact hia
      · exact hia.trans (ha x hx)
    · split
      · rename_i hia
        subst hia
        exact wf_cons ha hm'
      · rename_i h1 h2
        refine wf_cons_iff.2 ⟨fun x hx => ?_, hb, ih hm'⟩
        rcases mem_write_imp hx with h | h
        · omega
        · exact ha x h

/-- A read after a write: the written cell gives the value, every other cell is as before. -/
theorem read_write {m : Memory} (hm : Memory.wf m) (i : Nat) (v : Byte) (j : Nat) :
    Memory.read (Memory.write m i v) j = if i = j then v else Memory.read m j := by
  induction m with
  | nil => exact read_cons (by simp) j
  | cons y m ih =>
    obtain ⟨a, b⟩ := y
    obtain ⟨ha, -, hm'⟩ := wf_cons_iff.1 hm
    unfold Memory.write
    split
    · rename_i hia
      refine read_cons (fun x hx => ?_) j
      rcases List.mem_cons.1 hx with rfl | hx
      · exact hia
      · exact hia.trans (ha x hx)
    · split
      · rename_i hia
        subst hia
        rw [read_cons ha, read_listed]
        split <;> rfl
      · rename_i h1 h2
        rw [read_listed, read_listed, ih hm']
        split
        · rw [if_neg (by omega)]
        · rfl

theorem inBounds_write {m : Memory} (hm : Memory.inBounds m) {i : Nat} (hi : i < Config.histLen) (v : Byte) :
    Memory.inBounds (Memory.write m i v) := by
  intro x hx
  rcases mem_write_imp hx with h | h
  · omega
  · exact hm x h

/-! ### Painting a range of cells -/

theorem mem_paintFrom_imp (f : Byte → Byte) {n : Nat} : ∀ {i : Nat} {m : Memory} {x : Host.Cell},
    x ∈ Memory.paintFrom f i n m → (i ≤ x.1 ∧ x.1 < i + n) ∨ x ∈ m := by
  induction n with
  | zero => intro i m x h; exact .inr (by simpa [Memory.paintFrom] using h)
  | succ n ih =>
    intro i m x h
    cases m with
    | nil =>
      rcases mem_cons_imp h with rfl | h
      · exact .inl ⟨le_rfl, by simp⟩
      · rcases ih h with ⟨h1, h2⟩ | h
        · exact .inl ⟨by omega, by omega⟩
        · simp at h
    | cons y m =>
      obtain ⟨a, b⟩ := y
      simp only [Memory.paintFrom] at h
      split at h
      · rcases mem_cons_imp h with rfl | h
        · exact .inl ⟨le_rfl, by simp⟩
        · rcases ih h with ⟨h1, h2⟩ | h
          · exact .inl ⟨by omega, by omega⟩
          · exact .inr (by simp [h])
      · rcases mem_cons_imp h with rfl | h
        · exact .inl ⟨le_rfl, by simp⟩
        · rcases ih h with ⟨h1, h2⟩ | h
          · exact .inl ⟨by omega, by omega⟩
          · exact .inr h

/-- `paintFrom` on a canonical memory that lists nothing below `i`: it stays canonical, lists nothing below `i`, and
exactly the `n` cells from `i` up have `f` applied. -/
theorem paintFrom_spec (f : Byte → Byte) {n : Nat} : ∀ {i : Nat} {m : Memory}, Memory.wf m → (∀ x ∈ m, i ≤ x.1) →
    Memory.wf (Memory.paintFrom f i n m) ∧ (∀ x ∈ Memory.paintFrom f i n m, i ≤ x.1) ∧
    ∀ j, Memory.read (Memory.paintFrom f i n m) j =
      if i ≤ j ∧ j < i + n then f (Memory.read m j) else Memory.read m j := by
  induction n with
  | zero => intro i m hm hi; exact ⟨by simpa [Memory.paintFrom] using hm, by simpa [Memory.paintFrom] using hi,
      fun j => by rw [if_neg (by omega)]; rfl⟩
  | succ n ih =>
    intro i m hm hi
    have above : ∀ {m' : Memory} {v : Byte}, Memory.wf m' → (∀ x ∈ m', i + 1 ≤ x.1) →
        (∀ j, (if i = j then v else if i + 1 ≤ j ∧ j < i + 1 + n then f (Memory.read m' j) else Memory.read m' j) =
          if i ≤ j ∧ j < i + (n + 1) then f (Memory.read m j) else Memory.read m j) →
        Memory.wf (Memory.cons i v (Memory.paintFrom f (i + 1) n m')) ∧
        (∀ x ∈ Memory.cons i v (Memory.paintFrom f (i + 1) n m'), i ≤ x.1) ∧
        ∀ j, Memory.read (Memory.cons i v (Memory.paintFrom f (i + 1) n m')) j =
          if i ≤ j ∧ j < i + (n + 1) then f (Memory.read m j) else Memory.read m j := by
      intro m' v hm' hi' hread
      obtain ⟨w, b, r⟩ := ih hm' hi'
      refine ⟨wf_cons (fun x hx => b x hx) w, fun x hx => ?_, fun j => ?_⟩
      · rcases mem_cons_imp hx with rfl | hx
        · exact le_rfl
        · exact (Nat.le_succ i).trans (b x hx)
      · rw [read_cons (fun x hx => b x hx), r, hread]
    cases m with
    | nil =>
      refine above (m' := []) (v := f Config.blankCell) wf_nil (fun _ hx => nomatch hx) fun j => ?_
      split
      · rw [if_pos (by omega), read_nil]
      · split
        · rw [if_pos (by omega)]
        · rw [if_neg (by omega)]
    | cons y m =>
      obtain ⟨a, b⟩ := y
      obtain ⟨ha, -, hm'⟩ := wf_cons_iff.1 hm
      have hia : i ≤ a := hi (a, b) (by simp)
      simp only [Memory.paintFrom]
      split
      · rename_i haj
        subst haj
        refine above hm' (fun x hx => ha x hx) fun j => ?_
        simp only [read_listed]
        split
        · rw [if_pos (by omega)]
        · split
          · rw [if_pos (by omega)]
          · rw [if_neg (by omega)]
      · rename_i hne
        refine above hm (fun x hx => ?_) fun j => ?_
        · rcases List.mem_cons.1 hx with rfl | hx
          · show i + 1 ≤ a
            omega
          · have := ha x hx
            omega
        · split
          · rename_i hij
            subst hij
            rw [if_pos (by omega), read_unlisted (m := (a, b) :: m) (j := i)]
            intro x hx
            rcases List.mem_cons.1 hx with rfl | hx
            · exact hne
            · have := ha x hx
              omega
          · split
            · rw [if_pos (by omega)]
            · rw [if_neg (by omega)]

/-- Reading the part of a memory below `lo` followed by a memory that lists nothing below `lo`. -/
theorem read_below_append {m t : Memory} {lo : Nat} (ht : ∀ x ∈ t, lo ≤ x.1) (j : Nat) :
    Memory.read (m.filter (fun x => x.1 < lo) ++ t) j = if j < lo then Memory.read m j else Memory.read t j := by
  induction m with
  | nil =>
    simp only [List.filter_nil, List.nil_append, read_nil]
    split
    · rename_i hj
      rw [read_unlisted]
      intro x hx
      have := ht x hx
      omega
    · rfl
  | cons y m ih =>
    obtain ⟨a, b⟩ := y
    by_cases h : a < lo
    · simp only [List.filter_cons, h, decide_true, if_true, List.cons_append, read_listed, ih]
      split
      · rw [if_pos (by omega)]
      · rfl
    · simp only [List.filter_cons, h, decide_false, Bool.false_eq_true, if_false, ih, read_listed]
      split
      · rw [if_neg (by omega)]
      · rfl

/-- Reading the part of a memory from `lo` up. -/
theorem read_filter_above {m : Memory} {lo j : Nat} (hj : lo ≤ j) :
    Memory.read (m.filter fun x => lo ≤ x.1) j = Memory.read m j := by
  induction m with
  | nil => rfl
  | cons y m ih =>
    obtain ⟨a, b⟩ := y
    by_cases h : lo ≤ a
    · simp only [List.filter_cons, h, decide_true, if_true, read_listed, ih]
    · simp only [List.filter_cons, h, decide_false, Bool.false_eq_true, if_false, ih, read_listed]
      rw [if_neg (by omega)]

theorem wf_filter {m : Memory} (hm : Memory.wf m) (q : Host.Cell → Bool) : Memory.wf (m.filter q) :=
  ⟨hm.1.filter q, fun x hx => hm.2 x (List.mem_filter.1 hx).1⟩

/-- Painting keeps the canonical form. -/
theorem wf_paint (f : Byte → Byte) (lo hi : Nat) {m : Memory} (hm : Memory.wf m) :
    Memory.wf (Memory.paint f lo hi m) := by
  obtain ⟨w, b, -⟩ := paintFrom_spec f (n := hi - lo) (i := lo) (wf_filter hm fun x => lo ≤ x.1) (by simp)
  have w1 := wf_filter hm fun x => x.1 < lo
  refine ⟨List.pairwise_append.2 ⟨w1.1, w.1, fun x hx y hy => ?_⟩, fun x hx => ?_⟩
  · have h1 : x.1 < lo := by simpa using (List.mem_filter.1 hx).2
    exact h1.trans_le (b y hy)
  · rcases List.mem_append.1 hx with hx | hx
    · exact w1.2 x hx
    · exact w.2 x hx

/-- What painting does: `f` is applied once to each cell `j` with `lo ≤ j < hi`, and to no other cell. -/
theorem read_paint (f : Byte → Byte) (lo hi : Nat) {m : Memory} (hm : Memory.wf m) (j : Nat) :
    Memory.read (Memory.paint f lo hi m) j =
      if lo ≤ j ∧ j < hi then f (Memory.read m j) else Memory.read m j := by
  obtain ⟨-, b, r⟩ := paintFrom_spec f (n := hi - lo) (i := lo) (wf_filter hm fun x => lo ≤ x.1) (by simp)
  rw [Memory.paint, read_below_append b, r]
  split
  · rw [if_neg (by omega)]
  · rename_i hj
    rw [read_filter_above (by omega)]
    split
    · rw [if_pos (by omega)]
    · rw [if_neg (by omega)]

theorem inBounds_paint (f : Byte → Byte) (lo : Nat) {hi : Nat} (hhi : hi ≤ Config.histLen) {m : Memory}
    (hm : Memory.inBounds m) : Memory.inBounds (Memory.paint f lo hi m) := by
  intro x hx
  rcases List.mem_append.1 hx with hx | hx
  · exact hm x (List.mem_filter.1 hx).1
  · rcases mem_paintFrom_imp f hx with h | h
    · omega
    · exact hm x (List.mem_filter.1 h).1

/-! ### Applying a function to every cell -/

theorem mem_mapCells_imp {f : Byte → Byte} {m : Memory} {x : Host.Cell} (h : x ∈ Memory.mapCells f m) :
    x.2 ≠ Config.blankCell ∧ ∃ b, (x.1, b) ∈ m ∧ x.2 = f b := by
  obtain ⟨y, hy, h⟩ := List.mem_filterMap.1 h
  split at h
  · simp at h
  · rename_i hne
    obtain rfl := Option.some.inj h
    exact ⟨hne, y.2, hy, rfl⟩

theorem wf_mapCells (f : Byte → Byte) {m : Memory} (hm : Memory.wf m) : Memory.wf (Memory.mapCells f m) := by
  refine ⟨?_, fun x hx => (mem_mapCells_imp hx).1⟩
  refine List.Pairwise.filterMap _ (fun a a' h b hb b' hb' => ?_) hm.1
  split at hb <;> split at hb' <;> simp_all
  rw [← hb, ← hb']
  exact h

/-- What `mapCells` does, for a function that keeps the blank value. -/
theorem read_mapCells {f : Byte → Byte} (hf : f Config.blankCell = Config.blankCell) {m : Memory}
    (hm : Memory.wf m) (j : Nat) : Memory.read (Memory.mapCells f m) j = f (Memory.read m j) := by
  induction m with
  | nil => simp [Memory.mapCells, hf]
  | cons y m ih =>
    obtain ⟨a, b⟩ := y
    obtain ⟨ha, -, hm'⟩ := wf_cons_iff.1 hm
    have ih := ih hm'
    by_cases hb : f b = Config.blankCell
    · have hstep : Memory.mapCells f ((a, b) :: m) = Memory.mapCells f m := by
        simp [Memory.mapCells, hb]
      rw [hstep, ih, read_listed]
      split
      · rename_i haj
        subst haj
        rw [read_unlisted (m := m) fun x hx => (ha x hx).ne', hf, hb]
      · rfl
    · have hstep : Memory.mapCells f ((a, b) :: m) = (a, f b) :: Memory.mapCells f m := by
        simp [Memory.mapCells, hb]
      rw [hstep, read_listed, read_listed, ih]
      split <;> rfl

theorem inBounds_mapCells (f : Byte → Byte) {m : Memory} (hm : Memory.inBounds m) :
    Memory.inBounds (Memory.mapCells f m) := by
  intro x hx
  obtain ⟨-, b, hb, -⟩ := mem_mapCells_imp hx
  exact hm (x.1, b) hb

/-! ### Equal reads are equal memories -/

/-- Two canonical memories that read the same everywhere are the same list. -/
theorem ext_read {m n : Memory} (hm : Memory.wf m) (hn : Memory.wf n)
    (h : ∀ j, Memory.read m j = Memory.read n j) : m = n := by
  induction m generalizing n with
  | nil =>
    cases n with
    | nil => rfl
    | cons y n =>
      obtain ⟨a, b⟩ := y
      have hb := (wf_cons_iff.1 hn).2.1
      have := h a
      simp only [read_nil, read_listed, if_true] at this
      exact absurd this.symm hb
  | cons x m ih =>
    obtain ⟨a, b⟩ := x
    obtain ⟨ha, hb, hm'⟩ := wf_cons_iff.1 hm
    cases n with
    | nil =>
      have := h a
      simp only [read_nil, read_listed, if_true] at this
      exact absurd this hb
    | cons y n =>
      obtain ⟨c, d⟩ := y
      obtain ⟨hc, hd, hn'⟩ := wf_cons_iff.1 hn
      have below : ∀ {e : Nat} {l : Memory}, (∀ x ∈ l, e < x.1) → Memory.read l e = Config.blankCell :=
        fun hl => read_unlisted fun x hx => (hl x hx).ne'
      have hac : a = c := by
        rcases Nat.lt_trichotomy a c with hlt | heq | hgt
        · have := h a
          rw [read_listed, if_pos rfl, read_listed, if_neg hlt.ne', below fun x hx => hlt.trans (hc x hx)] at this
          exact absurd this hb
        · exact heq
        · have := h c
          rw [read_listed, if_neg hgt.ne', read_listed, if_pos rfl, below fun x hx => hgt.trans (ha x hx)] at this
          exact absurd this.symm hd
      subst hac
      have hbd : b = d := by
        have := h a
        simpa only [read_listed, if_true] using this
      subst hbd
      rw [ih hm' hn' fun j => ?_]
      by_cases hj : a = j
      · subst hj
        rw [below ha, below hc]
      · have := h j
        rwa [read_listed, if_neg hj, read_listed, if_neg hj] at this

/-- Writes to different cells commute. -/
theorem write_comm {m : Memory} (hm : Memory.wf m) {i j : Nat} (hij : i ≠ j) (v w : Byte) :
    Memory.write (Memory.write m i v) j w = Memory.write (Memory.write m j w) i v := by
  refine ext_read (wf_write (wf_write hm _ _) _ _) (wf_write (wf_write hm _ _) _ _) fun n => ?_
  rw [read_write (wf_write hm _ _), read_write hm, read_write (wf_write hm _ _), read_write hm]
  split
  · rw [if_neg (by omega)]
  · rfl

/-- Writing a cell twice is writing it once. -/
theorem write_write {m : Memory} (hm : Memory.wf m) (i : Nat) (v w : Byte) :
    Memory.write (Memory.write m i v) i w = Memory.write m i w := by
  refine ext_read (wf_write (wf_write hm _ _) _ _) (wf_write hm _ _) fun n => ?_
  rw [read_write (wf_write hm _ _), read_write hm, read_write hm]
  split <;> rfl

end Memory

end Sys2Proof.Machine
end

