-- ==== Sys2Proof/Laws/State.lean ====
section
/-! SUPPORT. One lemma per field per update of the state, so that no proof unfolds a record update. -/

namespace Sys2Proof.Machine

variable (s : State)

/-! ### setHist -/

@[simp] theorem State.setHist_slots (h : HistSel) (m : Memory) : (s.setHist h m).slots = s.slots := by cases h <;> rfl
@[simp] theorem State.setHist_etype (h : HistSel) (m : Memory) : (s.setHist h m).etype = s.etype := by cases h <;> rfl
@[simp] theorem State.setHist_etime (h : HistSel) (m : Memory) : (s.setHist h m).etime = s.etime := by cases h <;> rfl
@[simp] theorem State.setHist_estruct (h : HistSel) (m : Memory) : (s.setHist h m).estruct = s.estruct := by cases h <;> rfl
@[simp] theorem State.setHist_phase (h : HistSel) (m : Memory) : (s.setHist h m).phase = s.phase := by cases h <;> rfl
@[simp] theorem State.setHist_origin (h : HistSel) (m : Memory) : (s.setHist h m).origin = s.origin := by cases h <;> rfl
@[simp] theorem State.setHist_hs (h : HistSel) (m : Memory) : (s.setHist h m).hs = s.hs := by cases h <;> rfl
@[simp] theorem State.setHist_lastDev (h : HistSel) (m : Memory) : (s.setHist h m).lastDev = s.lastDev := by cases h <;> rfl
@[simp] theorem State.setHist_cnt (h : HistSel) (m : Memory) : (s.setHist h m).cnt = s.cnt := by cases h <;> rfl
@[simp] theorem State.setHist_devcnt (h : HistSel) (m : Memory) : (s.setHist h m).devcnt = s.devcnt := by cases h <;> rfl
@[simp] theorem State.setHist_devseen (h : HistSel) (m : Memory) : (s.setHist h m).devseen = s.devseen := by cases h <;> rfl
@[simp] theorem State.setHist_inputs (h : HistSel) (m : Memory) : (s.setHist h m).inputs = s.inputs := by cases h <;> rfl
@[simp] theorem State.setHist_responses (h : HistSel) (m : Memory) : (s.setHist h m).responses = s.responses := by cases h <;> rfl
@[simp] theorem State.setHist_trace (h : HistSel) (m : Memory) : (s.setHist h m).trace = s.trace := by cases h <;> rfl

/-! ### mapHists -/

@[simp] theorem State.mapHists_slots (f : Memory → Memory) : (s.mapHists f).slots = s.slots := rfl
@[simp] theorem State.mapHists_etype (f : Memory → Memory) : (s.mapHists f).etype = s.etype := rfl
@[simp] theorem State.mapHists_etime (f : Memory → Memory) : (s.mapHists f).etime = s.etime := rfl
@[simp] theorem State.mapHists_estruct (f : Memory → Memory) : (s.mapHists f).estruct = s.estruct := rfl
@[simp] theorem State.mapHists_phase (f : Memory → Memory) : (s.mapHists f).phase = s.phase := rfl
@[simp] theorem State.mapHists_origin (f : Memory → Memory) : (s.mapHists f).origin = s.origin := rfl
@[simp] theorem State.mapHists_hs (f : Memory → Memory) : (s.mapHists f).hs = s.hs := rfl
@[simp] theorem State.mapHists_lastDev (f : Memory → Memory) : (s.mapHists f).lastDev = s.lastDev := rfl
@[simp] theorem State.mapHists_cnt (f : Memory → Memory) : (s.mapHists f).cnt = s.cnt := rfl
@[simp] theorem State.mapHists_devcnt (f : Memory → Memory) : (s.mapHists f).devcnt = s.devcnt := rfl
@[simp] theorem State.mapHists_devseen (f : Memory → Memory) : (s.mapHists f).devseen = s.devseen := rfl
@[simp] theorem State.mapHists_histIn (f : Memory → Memory) : (s.mapHists f).histIn = f s.histIn := rfl
@[simp] theorem State.mapHists_histOut (f : Memory → Memory) : (s.mapHists f).histOut = f s.histOut := rfl
@[simp] theorem State.mapHists_histNak (f : Memory → Memory) : (s.mapHists f).histNak = f s.histNak := rfl
@[simp] theorem State.mapHists_inputs (f : Memory → Memory) : (s.mapHists f).inputs = s.inputs := rfl
@[simp] theorem State.mapHists_responses (f : Memory → Memory) : (s.mapHists f).responses = s.responses := rfl
@[simp] theorem State.mapHists_trace (f : Memory → Memory) : (s.mapHists f).trace = s.trace := rfl

/-! ### setCnt -/

@[simp] theorem State.setCnt_slots (c : BitVec 3) (v : Word) : (s.setCnt c v).slots = s.slots := rfl
@[simp] theorem State.setCnt_etype (c : BitVec 3) (v : Word) : (s.setCnt c v).etype = s.etype := rfl
@[simp] theorem State.setCnt_etime (c : BitVec 3) (v : Word) : (s.setCnt c v).etime = s.etime := rfl
@[simp] theorem State.setCnt_estruct (c : BitVec 3) (v : Word) : (s.setCnt c v).estruct = s.estruct := rfl
@[simp] theorem State.setCnt_phase (c : BitVec 3) (v : Word) : (s.setCnt c v).phase = s.phase := rfl
@[simp] theorem State.setCnt_origin (c : BitVec 3) (v : Word) : (s.setCnt c v).origin = s.origin := rfl
@[simp] theorem State.setCnt_hs (c : BitVec 3) (v : Word) : (s.setCnt c v).hs = s.hs := rfl
@[simp] theorem State.setCnt_lastDev (c : BitVec 3) (v : Word) : (s.setCnt c v).lastDev = s.lastDev := rfl
@[simp] theorem State.setCnt_cnt (c : BitVec 3) (v : Word) : (s.setCnt c v).cnt = s.cnt.set c.toNat v := rfl
@[simp] theorem State.setCnt_devcnt (c : BitVec 3) (v : Word) : (s.setCnt c v).devcnt = s.devcnt := rfl
@[simp] theorem State.setCnt_devseen (c : BitVec 3) (v : Word) : (s.setCnt c v).devseen = s.devseen := rfl
@[simp] theorem State.setCnt_histIn (c : BitVec 3) (v : Word) : (s.setCnt c v).histIn = s.histIn := rfl
@[simp] theorem State.setCnt_histOut (c : BitVec 3) (v : Word) : (s.setCnt c v).histOut = s.histOut := rfl
@[simp] theorem State.setCnt_histNak (c : BitVec 3) (v : Word) : (s.setCnt c v).histNak = s.histNak := rfl
@[simp] theorem State.setCnt_inputs (c : BitVec 3) (v : Word) : (s.setCnt c v).inputs = s.inputs := rfl
@[simp] theorem State.setCnt_responses (c : BitVec 3) (v : Word) : (s.setCnt c v).responses = s.responses := rfl
@[simp] theorem State.setCnt_trace (c : BitVec 3) (v : Word) : (s.setCnt c v).trace = s.trace := rfl

/-! ### setDev -/

@[simp] theorem State.setDev_slots (a : BitVec 7) (b : Bool) (v : Word) : (s.setDev a b v).slots = s.slots := rfl
@[simp] theorem State.setDev_etype (a : BitVec 7) (b : Bool) (v : Word) : (s.setDev a b v).etype = s.etype := rfl
@[simp] theorem State.setDev_etime (a : BitVec 7) (b : Bool) (v : Word) : (s.setDev a b v).etime = s.etime := rfl
@[simp] theorem State.setDev_estruct (a : BitVec 7) (b : Bool) (v : Word) : (s.setDev a b v).estruct = s.estruct := rfl
@[simp] theorem State.setDev_phase (a : BitVec 7) (b : Bool) (v : Word) : (s.setDev a b v).phase = s.phase := rfl
@[simp] theorem State.setDev_origin (a : BitVec 7) (b : Bool) (v : Word) : (s.setDev a b v).origin = s.origin := rfl
@[simp] theorem State.setDev_hs (a : BitVec 7) (b : Bool) (v : Word) : (s.setDev a b v).hs = s.hs := rfl
@[simp] theorem State.setDev_lastDev (a : BitVec 7) (b : Bool) (v : Word) : (s.setDev a b v).lastDev = s.lastDev := rfl
@[simp] theorem State.setDev_cnt (a : BitVec 7) (b : Bool) (v : Word) : (s.setDev a b v).cnt = s.cnt := rfl
@[simp] theorem State.setDev_devcnt (a : BitVec 7) (b : Bool) (v : Word) : (s.setDev a b v).devcnt = s.devcnt.set a.toNat v := rfl
@[simp] theorem State.setDev_devseen (a : BitVec 7) (b : Bool) (v : Word) : (s.setDev a b v).devseen = s.devseen.set a.toNat b := rfl
@[simp] theorem State.setDev_histIn (a : BitVec 7) (b : Bool) (v : Word) : (s.setDev a b v).histIn = s.histIn := rfl
@[simp] theorem State.setDev_histOut (a : BitVec 7) (b : Bool) (v : Word) : (s.setDev a b v).histOut = s.histOut := rfl
@[simp] theorem State.setDev_histNak (a : BitVec 7) (b : Bool) (v : Word) : (s.setDev a b v).histNak = s.histNak := rfl
@[simp] theorem State.setDev_inputs (a : BitVec 7) (b : Bool) (v : Word) : (s.setDev a b v).inputs = s.inputs := rfl
@[simp] theorem State.setDev_responses (a : BitVec 7) (b : Bool) (v : Word) : (s.setDev a b v).responses = s.responses := rfl
@[simp] theorem State.setDev_trace (a : BitVec 7) (b : Bool) (v : Word) : (s.setDev a b v).trace = s.trace := rfl

/-! ### setSlot -/

@[simp] theorem State.setSlot_etype (k : SlotId) (p : Packet) : (s.setSlot k p).etype = s.etype := by cases k <;> rfl
@[simp] theorem State.setSlot_etime (k : SlotId) (p : Packet) : (s.setSlot k p).etime = s.etime := by cases k <;> rfl
@[simp] theorem State.setSlot_estruct (k : SlotId) (p : Packet) : (s.setSlot k p).estruct = s.estruct := by cases k <;> rfl
@[simp] theorem State.setSlot_phase (k : SlotId) (p : Packet) : (s.setSlot k p).phase = s.phase := by cases k <;> rfl
@[simp] theorem State.setSlot_origin (k : SlotId) (p : Packet) : (s.setSlot k p).origin = s.origin := by cases k <;> rfl
@[simp] theorem State.setSlot_hs (k : SlotId) (p : Packet) : (s.setSlot k p).hs = s.hs := by cases k <;> rfl
@[simp] theorem State.setSlot_lastDev (k : SlotId) (p : Packet) : (s.setSlot k p).lastDev = s.lastDev := by cases k <;> rfl
@[simp] theorem State.setSlot_cnt (k : SlotId) (p : Packet) : (s.setSlot k p).cnt = s.cnt := by cases k <;> rfl
@[simp] theorem State.setSlot_devcnt (k : SlotId) (p : Packet) : (s.setSlot k p).devcnt = s.devcnt := by cases k <;> rfl
@[simp] theorem State.setSlot_devseen (k : SlotId) (p : Packet) : (s.setSlot k p).devseen = s.devseen := by cases k <;> rfl
@[simp] theorem State.setSlot_histIn (k : SlotId) (p : Packet) : (s.setSlot k p).histIn = s.histIn := by cases k <;> rfl
@[simp] theorem State.setSlot_histOut (k : SlotId) (p : Packet) : (s.setSlot k p).histOut = s.histOut := by cases k <;> rfl
@[simp] theorem State.setSlot_histNak (k : SlotId) (p : Packet) : (s.setSlot k p).histNak = s.histNak := by cases k <;> rfl
@[simp] theorem State.setSlot_inputs (k : SlotId) (p : Packet) : (s.setSlot k p).inputs = s.inputs := by cases k <;> rfl
@[simp] theorem State.setSlot_responses (k : SlotId) (p : Packet) : (s.setSlot k p).responses = s.responses := by cases k <;> rfl
@[simp] theorem State.setSlot_trace (k : SlotId) (p : Packet) : (s.setSlot k p).trace = s.trace := by cases k <;> rfl

/-! ### answer -/

@[simp] theorem State.answer_slots (r : Response) : (s.answer r).slots = s.slots := rfl
@[simp] theorem State.answer_etype (r : Response) : (s.answer r).etype = s.etype := rfl
@[simp] theorem State.answer_etime (r : Response) : (s.answer r).etime = s.etime := rfl
@[simp] theorem State.answer_estruct (r : Response) : (s.answer r).estruct = s.estruct := rfl
@[simp] theorem State.answer_phase (r : Response) : (s.answer r).phase = s.phase := rfl
@[simp] theorem State.answer_origin (r : Response) : (s.answer r).origin = s.origin := rfl
@[simp] theorem State.answer_hs (r : Response) : (s.answer r).hs = s.hs := rfl
@[simp] theorem State.answer_lastDev (r : Response) : (s.answer r).lastDev = s.lastDev := rfl
@[simp] theorem State.answer_cnt (r : Response) : (s.answer r).cnt = s.cnt := rfl
@[simp] theorem State.answer_devcnt (r : Response) : (s.answer r).devcnt = s.devcnt := rfl
@[simp] theorem State.answer_devseen (r : Response) : (s.answer r).devseen = s.devseen := rfl
@[simp] theorem State.answer_histIn (r : Response) : (s.answer r).histIn = s.histIn := rfl
@[simp] theorem State.answer_histOut (r : Response) : (s.answer r).histOut = s.histOut := rfl
@[simp] theorem State.answer_histNak (r : Response) : (s.answer r).histNak = s.histNak := rfl
@[simp] theorem State.answer_inputs (r : Response) : (s.answer r).inputs = s.inputs := rfl
@[simp] theorem State.answer_responses (r : Response) : (s.answer r).responses = s.responses ++ [r] := rfl
@[simp] theorem State.answer_trace (r : Response) : (s.answer r).trace = s.trace := rfl

/-! ### zeroAll -/

@[simp] theorem State.zeroAll_slots : (s.zeroAll).slots = s.slots := rfl
@[simp] theorem State.zeroAll_etype : (s.zeroAll).etype = s.etype := rfl
@[simp] theorem State.zeroAll_etime : (s.zeroAll).etime = s.etime := rfl
@[simp] theorem State.zeroAll_estruct : (s.zeroAll).estruct = s.estruct := rfl
@[simp] theorem State.zeroAll_phase : (s.zeroAll).phase = s.phase := rfl
@[simp] theorem State.zeroAll_origin : (s.zeroAll).origin = 0#64 := rfl
@[simp] theorem State.zeroAll_hs : (s.zeroAll).hs = false := rfl
@[simp] theorem State.zeroAll_lastDev : (s.zeroAll).lastDev = 0#7 := rfl
@[simp] theorem State.zeroAll_cnt : (s.zeroAll).cnt = Vector.replicate 8 0#32 := rfl
@[simp] theorem State.zeroAll_devcnt : (s.zeroAll).devcnt = Vector.replicate 128 0#32 := rfl
@[simp] theorem State.zeroAll_devseen : (s.zeroAll).devseen = Vector.replicate 128 false := rfl
@[simp] theorem State.zeroAll_histIn : (s.zeroAll).histIn = [] := rfl
@[simp] theorem State.zeroAll_histOut : (s.zeroAll).histOut = [] := rfl
@[simp] theorem State.zeroAll_histNak : (s.zeroAll).histNak = [] := rfl
@[simp] theorem State.zeroAll_inputs : (s.zeroAll).inputs = s.inputs := rfl
@[simp] theorem State.zeroAll_responses : (s.zeroAll).responses = s.responses := rfl
@[simp] theorem State.zeroAll_trace : (s.zeroAll).trace = s.trace := rfl

/-! ### take -/

@[simp] theorem State.take_slots (rest : List HostEvent) : (s.take rest).slots = s.slots := rfl
@[simp] theorem State.take_etype (rest : List HostEvent) : (s.take rest).etype = s.etype := rfl
@[simp] theorem State.take_etime (rest : List HostEvent) : (s.take rest).etime = s.etime := rfl
@[simp] theorem State.take_estruct (rest : List HostEvent) : (s.take rest).estruct = s.estruct := rfl
@[simp] theorem State.take_phase (rest : List HostEvent) : (s.take rest).phase = s.phase := rfl
@[simp] theorem State.take_origin (rest : List HostEvent) : (s.take rest).origin = s.origin := rfl
@[simp] theorem State.take_hs (rest : List HostEvent) : (s.take rest).hs = s.hs := rfl
@[simp] theorem State.take_lastDev (rest : List HostEvent) : (s.take rest).lastDev = s.lastDev := rfl
@[simp] theorem State.take_cnt (rest : List HostEvent) : (s.take rest).cnt = s.cnt := rfl
@[simp] theorem State.take_devcnt (rest : List HostEvent) : (s.take rest).devcnt = s.devcnt := rfl
@[simp] theorem State.take_devseen (rest : List HostEvent) : (s.take rest).devseen = s.devseen := rfl
@[simp] theorem State.take_histIn (rest : List HostEvent) : (s.take rest).histIn = s.histIn := rfl
@[simp] theorem State.take_histOut (rest : List HostEvent) : (s.take rest).histOut = s.histOut := rfl
@[simp] theorem State.take_histNak (rest : List HostEvent) : (s.take rest).histNak = s.histNak := rfl
@[simp] theorem State.take_inputs (rest : List HostEvent) : (s.take rest).inputs = rest := rfl
@[simp] theorem State.take_responses (rest : List HostEvent) : (s.take rest).responses = s.responses := rfl
@[simp] theorem State.take_trace (rest : List HostEvent) : (s.take rest).trace = s.trace := rfl

/-! ### The answering operations are `answer` -/

@[simp] theorem State.ack_eq : s.ack = s.answer ⟨0#64, false, 0#3, false⟩ := rfl

@[simp] theorem State.respond_eq {w : Nat} (v : BitVec w) :
    s.respond v = s.answer ⟨v.setWidth 64, false, 0#3, false⟩ := rfl

@[simp] theorem State.respondBool_eq (b : Bool) :
    s.respondBool b = s.answer ⟨(BitVec.ofBool b).setWidth 64, false, 0#3, false⟩ := rfl

@[simp] theorem State.respondUnknown_eq : s.respondUnknown = s.answer ⟨0#64, true, 0#3, false⟩ := rfl

@[simp] theorem State.cmdError_eq (e : CmdError) : s.cmdError e = s.answer ⟨0#64, false, e.code, false⟩ := rfl

@[simp] theorem State.respondOption_some {w : Nat} (v : BitVec w) :
    s.respondOption (some v) = s.answer ⟨v.setWidth 64, false, 0#3, false⟩ := rfl

@[simp] theorem State.respondOption_none {w : Nat} :
    s.respondOption (none : Option (BitVec w)) = s.answer ⟨0#64, true, 0#3, false⟩ := rfl

/-- What `respondOption` does, said once: it gives one response and nothing else. -/
theorem State.respondOption_eq {w : Nat} (o : Option (BitVec w)) :
    s.respondOption o = s.answer ⟨(o.getD 0#w).setWidth 64, o.isNone, 0#3, false⟩ := by
  cases o with
  | none => simp
  | some v => rfl

/-! ### Reading a slot or a histogram after an update -/

@[simp] theorem State.slot_setSlot_same (k : SlotId) (p : Packet) : (s.setSlot k p).slot k = p := by
  cases k <;> rfl

theorem State.slot_setSlot_ne {j k : SlotId} (p : Packet) (h : j ≠ k) : (s.setSlot k p).slot j = s.slot j := by
  cases j <;> cases k <;> first | rfl | exact absurd rfl h

@[simp] theorem State.hist_setHist_same (h : HistSel) (m : Memory) : (s.setHist h m).hist h = m := by
  cases h <;> rfl

theorem State.hist_setHist_ne {g h : HistSel} (m : Memory) (ne : g ≠ h) : (s.setHist h m).hist g = s.hist g := by
  cases g <;> cases h <;> first | rfl | exact absurd rfl ne

@[simp] theorem State.hist_mapHists (f : Memory → Memory) (h : HistSel) : (s.mapHists f).hist h = f (s.hist h) := by
  cases h <;> rfl

/-- A slot depends on the slots field only. -/
theorem State.slot_congr {s t : State} (h : t.slots = s.slots) (k : SlotId) : t.slot k = s.slot k := by
  cases k <;> simp [State.slot, h]

/-- A histogram depends on the three histogram fields only. -/
theorem State.hist_congr {s t : State} (hi : t.histIn = s.histIn) (ho : t.histOut = s.histOut)
    (hn : t.histNak = s.histNak) (h : HistSel) : t.hist h = s.hist h := by
  cases h <;> simp [State.hist, hi, ho, hn]

@[simp] theorem State.slot_setHist (h : HistSel) (m : Memory) (k : SlotId) : (s.setHist h m).slot k = s.slot k :=
  State.slot_congr (by simp) k

@[simp] theorem State.slot_setCnt (c : BitVec 3) (v : Word) (k : SlotId) : (s.setCnt c v).slot k = s.slot k :=
  State.slot_congr rfl k

@[simp] theorem State.slot_setDev (a : BitVec 7) (b : Bool) (v : Word) (k : SlotId) :
    (s.setDev a b v).slot k = s.slot k := State.slot_congr rfl k

@[simp] theorem State.slot_answer (r : Response) (k : SlotId) : (s.answer r).slot k = s.slot k :=
  State.slot_congr rfl k

@[simp] theorem State.slot_zeroAll (k : SlotId) : s.zeroAll.slot k = s.slot k := State.slot_congr rfl k

@[simp] theorem State.slot_mapHists (f : Memory → Memory) (k : SlotId) : (s.mapHists f).slot k = s.slot k :=
  State.slot_congr rfl k

@[simp] theorem State.slot_take (rest : List HostEvent) (k : SlotId) : (s.take rest).slot k = s.slot k :=
  State.slot_congr rfl k

@[simp] theorem State.hist_setSlot (k : SlotId) (p : Packet) (h : HistSel) : (s.setSlot k p).hist h = s.hist h :=
  State.hist_congr (by simp) (by simp) (by simp) h

@[simp] theorem State.hist_setCnt (c : BitVec 3) (v : Word) (h : HistSel) : (s.setCnt c v).hist h = s.hist h :=
  State.hist_congr rfl rfl rfl h

@[simp] theorem State.hist_setDev (a : BitVec 7) (b : Bool) (v : Word) (h : HistSel) :
    (s.setDev a b v).hist h = s.hist h := State.hist_congr rfl rfl rfl h

@[simp] theorem State.hist_answer (r : Response) (h : HistSel) : (s.answer r).hist h = s.hist h :=
  State.hist_congr rfl rfl rfl h

@[simp] theorem State.hist_zeroAll (h : HistSel) : s.zeroAll.hist h = [] := by cases h <;> rfl

@[simp] theorem State.hist_take (rest : List HostEvent) (h : HistSel) : (s.take rest).hist h = s.hist h :=
  State.hist_congr rfl rfl rfl h

/-! ### Counters and device table -/

theorem State.cntAt_setCnt (c d : BitVec 3) (v : Word) :
    (s.setCnt c v).cntAt d = if c = d then v else s.cntAt d := by
  simp only [State.cntAt, State.setCnt, Vector.getElem_set, BitVec.toNat_inj]

theorem State.devcntAt_setDev (a d : BitVec 7) (b : Bool) (v : Word) :
    (s.setDev a b v).devcntAt d = if a = d then v else s.devcntAt d := by
  simp only [State.devcntAt, State.setDev, Vector.getElem_set, BitVec.toNat_inj]

theorem State.devseenAt_setDev (a d : BitVec 7) (b : Bool) (v : Word) :
    (s.setDev a b v).devseenAt d = if a = d then b else s.devseenAt d := by
  simp only [State.devseenAt, State.setDev, Vector.getElem_set, BitVec.toNat_inj]

end Sys2Proof.Machine
end

