-- ==== Sys2Proof/Laws/Accumulator.lean ====
section
/-! SUPPORT. What the accumulator's operations do: one lemma per field each leaves alone, and what each writes. -/

namespace Sys2Proof.Machine

variable (s : State)

/-! ### bucket -/

@[simp] theorem State.bucket_slots (h : HistSel) (k : SlotId) : (s.bucket h k).slots = s.slots := State.setHist_slots s h _
@[simp] theorem State.bucket_etype (h : HistSel) (k : SlotId) : (s.bucket h k).etype = s.etype := State.setHist_etype s h _
@[simp] theorem State.bucket_etime (h : HistSel) (k : SlotId) : (s.bucket h k).etime = s.etime := State.setHist_etime s h _
@[simp] theorem State.bucket_estruct (h : HistSel) (k : SlotId) : (s.bucket h k).estruct = s.estruct := State.setHist_estruct s h _
@[simp] theorem State.bucket_phase (h : HistSel) (k : SlotId) : (s.bucket h k).phase = s.phase := State.setHist_phase s h _
@[simp] theorem State.bucket_origin (h : HistSel) (k : SlotId) : (s.bucket h k).origin = s.origin := State.setHist_origin s h _
@[simp] theorem State.bucket_hs (h : HistSel) (k : SlotId) : (s.bucket h k).hs = s.hs := State.setHist_hs s h _
@[simp] theorem State.bucket_lastDev (h : HistSel) (k : SlotId) : (s.bucket h k).lastDev = s.lastDev := State.setHist_lastDev s h _
@[simp] theorem State.bucket_cnt (h : HistSel) (k : SlotId) : (s.bucket h k).cnt = s.cnt := State.setHist_cnt s h _
@[simp] theorem State.bucket_devcnt (h : HistSel) (k : SlotId) : (s.bucket h k).devcnt = s.devcnt := State.setHist_devcnt s h _
@[simp] theorem State.bucket_devseen (h : HistSel) (k : SlotId) : (s.bucket h k).devseen = s.devseen := State.setHist_devseen s h _
@[simp] theorem State.bucket_inputs (h : HistSel) (k : SlotId) : (s.bucket h k).inputs = s.inputs := State.setHist_inputs s h _
@[simp] theorem State.bucket_responses (h : HistSel) (k : SlotId) : (s.bucket h k).responses = s.responses := State.setHist_responses s h _
@[simp] theorem State.bucket_trace (h : HistSel) (k : SlotId) : (s.bucket h k).trace = s.trace := State.setHist_trace s h _

@[simp] theorem State.slot_bucket (h : HistSel) (k : SlotId) (j : SlotId) : (s.bucket h k).slot j = s.slot j :=
  State.slot_congr (by simp) j

/-! ### incCnt -/

@[simp] theorem State.incCnt_slots (c : BitVec 3) : (s.incCnt c).slots = s.slots := rfl
@[simp] theorem State.incCnt_etype (c : BitVec 3) : (s.incCnt c).etype = s.etype := rfl
@[simp] theorem State.incCnt_etime (c : BitVec 3) : (s.incCnt c).etime = s.etime := rfl
@[simp] theorem State.incCnt_estruct (c : BitVec 3) : (s.incCnt c).estruct = s.estruct := rfl
@[simp] theorem State.incCnt_phase (c : BitVec 3) : (s.incCnt c).phase = s.phase := rfl
@[simp] theorem State.incCnt_origin (c : BitVec 3) : (s.incCnt c).origin = s.origin := rfl
@[simp] theorem State.incCnt_hs (c : BitVec 3) : (s.incCnt c).hs = s.hs := rfl
@[simp] theorem State.incCnt_lastDev (c : BitVec 3) : (s.incCnt c).lastDev = s.lastDev := rfl
@[simp] theorem State.incCnt_devcnt (c : BitVec 3) : (s.incCnt c).devcnt = s.devcnt := rfl
@[simp] theorem State.incCnt_devseen (c : BitVec 3) : (s.incCnt c).devseen = s.devseen := rfl
@[simp] theorem State.incCnt_histIn (c : BitVec 3) : (s.incCnt c).histIn = s.histIn := rfl
@[simp] theorem State.incCnt_histOut (c : BitVec 3) : (s.incCnt c).histOut = s.histOut := rfl
@[simp] theorem State.incCnt_histNak (c : BitVec 3) : (s.incCnt c).histNak = s.histNak := rfl
@[simp] theorem State.incCnt_inputs (c : BitVec 3) : (s.incCnt c).inputs = s.inputs := rfl
@[simp] theorem State.incCnt_responses (c : BitVec 3) : (s.incCnt c).responses = s.responses := rfl
@[simp] theorem State.incCnt_trace (c : BitVec 3) : (s.incCnt c).trace = s.trace := rfl

@[simp] theorem State.slot_incCnt (c : BitVec 3) (j : SlotId) : (s.incCnt c).slot j = s.slot j :=
  State.slot_congr (by simp) j

@[simp] theorem State.hist_incCnt (c : BitVec 3) (g : HistSel) : (s.incCnt c).hist g = s.hist g :=
  State.hist_congr (by simp) (by simp) (by simp) g

/-! ### incCntIf -/

@[simp] theorem State.incCntIf_slots (b : Bool) (c : BitVec 3) : (s.incCntIf b c).slots = s.slots := by cases b <;> rfl
@[simp] theorem State.incCntIf_etype (b : Bool) (c : BitVec 3) : (s.incCntIf b c).etype = s.etype := by cases b <;> rfl
@[simp] theorem State.incCntIf_etime (b : Bool) (c : BitVec 3) : (s.incCntIf b c).etime = s.etime := by cases b <;> rfl
@[simp] theorem State.incCntIf_estruct (b : Bool) (c : BitVec 3) : (s.incCntIf b c).estruct = s.estruct := by cases b <;> rfl
@[simp] theorem State.incCntIf_phase (b : Bool) (c : BitVec 3) : (s.incCntIf b c).phase = s.phase := by cases b <;> rfl
@[simp] theorem State.incCntIf_origin (b : Bool) (c : BitVec 3) : (s.incCntIf b c).origin = s.origin := by cases b <;> rfl
@[simp] theorem State.incCntIf_hs (b : Bool) (c : BitVec 3) : (s.incCntIf b c).hs = s.hs := by cases b <;> rfl
@[simp] theorem State.incCntIf_lastDev (b : Bool) (c : BitVec 3) : (s.incCntIf b c).lastDev = s.lastDev := by cases b <;> rfl
@[simp] theorem State.incCntIf_devcnt (b : Bool) (c : BitVec 3) : (s.incCntIf b c).devcnt = s.devcnt := by cases b <;> rfl
@[simp] theorem State.incCntIf_devseen (b : Bool) (c : BitVec 3) : (s.incCntIf b c).devseen = s.devseen := by cases b <;> rfl
@[simp] theorem State.incCntIf_histIn (b : Bool) (c : BitVec 3) : (s.incCntIf b c).histIn = s.histIn := by cases b <;> rfl
@[simp] theorem State.incCntIf_histOut (b : Bool) (c : BitVec 3) : (s.incCntIf b c).histOut = s.histOut := by cases b <;> rfl
@[simp] theorem State.incCntIf_histNak (b : Bool) (c : BitVec 3) : (s.incCntIf b c).histNak = s.histNak := by cases b <;> rfl
@[simp] theorem State.incCntIf_inputs (b : Bool) (c : BitVec 3) : (s.incCntIf b c).inputs = s.inputs := by cases b <;> rfl
@[simp] theorem State.incCntIf_responses (b : Bool) (c : BitVec 3) : (s.incCntIf b c).responses = s.responses := by cases b <;> rfl
@[simp] theorem State.incCntIf_trace (b : Bool) (c : BitVec 3) : (s.incCntIf b c).trace = s.trace := by cases b <;> rfl

@[simp] theorem State.slot_incCntIf (b : Bool) (c : BitVec 3) (j : SlotId) : (s.incCntIf b c).slot j = s.slot j :=
  State.slot_congr (by simp) j

@[simp] theorem State.hist_incCntIf (b : Bool) (c : BitVec 3) (g : HistSel) : (s.incCntIf b c).hist g = s.hist g :=
  State.hist_congr (by simp) (by simp) (by simp) g

/-! ### count -/

@[simp] theorem State.count_slots (h : HistSel) : (s.count h).slots = s.slots := by simp [State.count]
@[simp] theorem State.count_etype (h : HistSel) : (s.count h).etype = s.etype := by simp [State.count]
@[simp] theorem State.count_etime (h : HistSel) : (s.count h).etime = s.etime := by simp [State.count]
@[simp] theorem State.count_estruct (h : HistSel) : (s.count h).estruct = s.estruct := by simp [State.count]
@[simp] theorem State.count_phase (h : HistSel) : (s.count h).phase = s.phase := by simp [State.count]
@[simp] theorem State.count_origin (h : HistSel) : (s.count h).origin = s.origin := by simp [State.count]
@[simp] theorem State.count_hs (h : HistSel) : (s.count h).hs = s.hs := by simp [State.count]
@[simp] theorem State.count_lastDev (h : HistSel) : (s.count h).lastDev = s.lastDev := by simp [State.count]
@[simp] theorem State.count_devcnt (h : HistSel) : (s.count h).devcnt = s.devcnt := by simp [State.count]
@[simp] theorem State.count_devseen (h : HistSel) : (s.count h).devseen = s.devseen := by simp [State.count]
@[simp] theorem State.count_histIn (h : HistSel) : (s.count h).histIn = s.histIn := by simp [State.count]
@[simp] theorem State.count_histOut (h : HistSel) : (s.count h).histOut = s.histOut := by simp [State.count]
@[simp] theorem State.count_histNak (h : HistSel) : (s.count h).histNak = s.histNak := by simp [State.count]
@[simp] theorem State.count_inputs (h : HistSel) : (s.count h).inputs = s.inputs := by simp [State.count]
@[simp] theorem State.count_responses (h : HistSel) : (s.count h).responses = s.responses := by simp [State.count]
@[simp] theorem State.count_trace (h : HistSel) : (s.count h).trace = s.trace := by simp [State.count]

@[simp] theorem State.slot_count (h : HistSel) (j : SlotId) : (s.count h).slot j = s.slot j :=
  State.slot_congr (by simp) j

@[simp] theorem State.hist_count (h : HistSel) (g : HistSel) : (s.count h).hist g = s.hist g :=
  State.hist_congr (by simp) (by simp) (by simp) g

/-! ### track -/

@[simp] theorem State.track_slots (a : Option (BitVec 7)) : (s.track a).slots = s.slots := by
  unfold State.track; split <;> [rfl; (split <;> rfl)]
@[simp] theorem State.track_etype (a : Option (BitVec 7)) : (s.track a).etype = s.etype := by
  unfold State.track; split <;> [rfl; (split <;> rfl)]
@[simp] theorem State.track_etime (a : Option (BitVec 7)) : (s.track a).etime = s.etime := by
  unfold State.track; split <;> [rfl; (split <;> rfl)]
@[simp] theorem State.track_estruct (a : Option (BitVec 7)) : (s.track a).estruct = s.estruct := by
  unfold State.track; split <;> [rfl; (split <;> rfl)]
@[simp] theorem State.track_phase (a : Option (BitVec 7)) : (s.track a).phase = s.phase := by
  unfold State.track; split <;> [rfl; (split <;> rfl)]
@[simp] theorem State.track_origin (a : Option (BitVec 7)) : (s.track a).origin = s.origin := by
  unfold State.track; split <;> [rfl; (split <;> rfl)]
@[simp] theorem State.track_hs (a : Option (BitVec 7)) : (s.track a).hs = s.hs := by
  unfold State.track; split <;> [rfl; (split <;> rfl)]
@[simp] theorem State.track_cnt (a : Option (BitVec 7)) : (s.track a).cnt = s.cnt := by
  unfold State.track; split <;> [rfl; (split <;> rfl)]
@[simp] theorem State.track_histIn (a : Option (BitVec 7)) : (s.track a).histIn = s.histIn := by
  unfold State.track; split <;> [rfl; (split <;> rfl)]
@[simp] theorem State.track_histOut (a : Option (BitVec 7)) : (s.track a).histOut = s.histOut := by
  unfold State.track; split <;> [rfl; (split <;> rfl)]
@[simp] theorem State.track_histNak (a : Option (BitVec 7)) : (s.track a).histNak = s.histNak := by
  unfold State.track; split <;> [rfl; (split <;> rfl)]
@[simp] theorem State.track_inputs (a : Option (BitVec 7)) : (s.track a).inputs = s.inputs := by
  unfold State.track; split <;> [rfl; (split <;> rfl)]
@[simp] theorem State.track_responses (a : Option (BitVec 7)) : (s.track a).responses = s.responses := by
  unfold State.track; split <;> [rfl; (split <;> rfl)]
@[simp] theorem State.track_trace (a : Option (BitVec 7)) : (s.track a).trace = s.trace := by
  unfold State.track; split <;> [rfl; (split <;> rfl)]

@[simp] theorem State.slot_track (a : Option (BitVec 7)) (j : SlotId) : (s.track a).slot j = s.slot j :=
  State.slot_congr (by simp) j

@[simp] theorem State.hist_track (a : Option (BitVec 7)) (g : HistSel) : (s.track a).hist g = s.hist g :=
  State.hist_congr (by simp) (by simp) (by simp) g

/-! ### Bucketing -/

/-- A packet that R210 skips leaves the histogram alone. -/
theorem bucketInto_skip {origin : Time} {p : Packet} (m : Memory)
    (h : p.len = 0 ∨ p.speed.scale = none ∨ p.time.toNat < origin.toNat) : bucketInto origin p m = m := by
  unfold bucketInto
  split
  · rfl
  · split
    · rfl
    · split
      · rfl
      · simp_all

/-- A packet that R210 does not skip paints the cells it covers. -/
theorem bucketInto_paint {origin : Time} {p : Packet} {ticks factor : Nat} (m : Memory) (hlen : p.len ≠ 0)
    (hscale : p.speed.scale = some (ticks, factor)) (htime : origin.toNat ≤ p.time.toNat) :
    bucketInto origin p m =
      m.paint paintCell (framePos (p.time.toNat - origin.toNat) ticks)
        (min (framePos (p.time.toNat - origin.toNat) ticks + footprint p.len factor) Config.histLen) := by
  unfold bucketInto
  rw [if_neg hlen, hscale]
  dsimp only
  rw [if_neg (by omega)]

/-- Every result of `bucketInto` is the memory itself or a painting that ends inside the histogram. -/
theorem bucketInto_cases (origin : Time) (p : Packet) (m : Memory) :
    bucketInto origin p m = m ∨
      ∃ lo hi, hi ≤ Config.histLen ∧ bucketInto origin p m = m.paint paintCell lo hi := by
  by_cases h : p.len = 0 ∨ p.speed.scale = none ∨ p.time.toNat < origin.toNat
  · exact .inl (bucketInto_skip m h)
  · simp only [not_or] at h
    obtain ⟨⟨ticks, factor⟩, ht⟩ := Option.ne_none_iff_exists'.1 h.2.1
    exact .inr ⟨_, _, min_le_right _ _, bucketInto_paint m h.1 ht (by omega)⟩

theorem wf_bucketInto (origin : Time) (p : Packet) {m : Memory} (hm : m.wf) : (bucketInto origin p m).wf := by
  rcases bucketInto_cases origin p m with h | ⟨lo, hi, -, h⟩ <;> rw [h]
  · exact hm
  · exact Memory.wf_paint _ _ _ hm

theorem inBounds_bucketInto (origin : Time) (p : Packet) {m : Memory} (hm : m.inBounds) :
    (bucketInto origin p m).inBounds := by
  rcases bucketInto_cases origin p m with h | ⟨lo, hi, hb, h⟩ <;> rw [h]
  · exact hm
  · exact Memory.inBounds_paint _ _ hb hm

/-- Bucketing into `h` replaces that histogram. -/
theorem State.hist_bucket_same (h : HistSel) (k : SlotId) :
    (s.bucket h k).hist h = bucketInto s.origin (s.slot k) (s.hist h) := State.hist_setHist_same s h _

/-- Bucketing into `h` leaves the other histograms alone. -/
theorem State.hist_bucket_ne {g h : HistSel} (k : SlotId) (ne : g ≠ h) : (s.bucket h k).hist g = s.hist g :=
  State.hist_setHist_ne s _ ne

theorem State.canonical_bucket (h : HistSel) (k : SlotId) (hs : ∀ g, (s.hist g).wf) :
    ∀ g, ((s.bucket h k).hist g).wf := by
  intro g
  by_cases e : g = h
  · subst e
    rw [State.hist_bucket_same]
    exact wf_bucketInto _ _ (hs g)
  · rw [State.hist_bucket_ne s k e]
    exact hs g

theorem State.inBounds_bucket (h : HistSel) (k : SlotId) (hs : ∀ g, (s.hist g).inBounds) :
    ∀ g, ((s.bucket h k).hist g).inBounds := by
  intro g
  by_cases e : g = h
  · subst e
    rw [State.hist_bucket_same]
    exact inBounds_bucketInto _ _ (hs g)
  · rw [State.hist_bucket_ne s k e]
    exact hs g

/-! ### Counters -/

theorem State.cntAt_incCnt (c d : BitVec 3) :
    (s.incCnt c).cntAt d = s.cntAt d + if c = d then 1#32 else 0#32 := by
  rw [State.incCnt, State.cntAt_setCnt]
  split
  · rename_i h
    rw [h]
  · rw [BitVec.add_zero]

theorem State.cntAt_incCntIf (b : Bool) (c d : BitVec 3) :
    (s.incCntIf b c).cntAt d = s.cntAt d + if b = true ∧ c = d then 1#32 else 0#32 := by
  cases b
  · simp [State.incCntIf]
  · simp [State.incCntIf, State.cntAt_incCnt]

/-! ### Device tracking -/

/-- An unknown address or address 0 tracks nothing (R209). -/
theorem State.track_none_or_zero {a : Option (BitVec 7)} (h : a = none ∨ a = some 0#7) : s.track a = s := by
  rcases h with rfl | rfl <;> rfl

/-- A known address other than 0 is seen, counted and remembered (R209). -/
theorem State.track_some {a : BitVec 7} (h : a ≠ 0#7) :
    s.track (some a) = { s.setDev a true (s.devcntAt a + 1#32) with lastDev := a } := by
  unfold State.track
  dsimp only
  rw [if_neg h]

/-! ### Cells -/

theorem toNat_paintCell (c : Byte) : (paintCell c).toNat = min 255 (c.toNat + 10) := by
  simp only [paintCell, satAdd, Config.cellMax, Config.histWeight, BitVec.toNat_ofNat]
  omega

theorem toNat_decayCell (c : Byte) : (decayCell c).toNat = c.toNat - (c.toNat / 25 + 3) := by
  simp only [decayCell, floorSub, Config.decayDiv, Config.decayAdd, BitVec.toNat_ofNat]
  have := c.isLt
  omega

/-- A blank cell stays blank under decay, so decay of a listed memory needs its listed cells only. -/
theorem decayCell_blank : decayCell Config.blankCell = Config.blankCell := by decide

end Sys2Proof.Machine
end

