-- ==== Sys2Proof/Laws/Decode.lean ====
section
/-! SUPPORT. The encoder's words and the decoder's fields: each format's word gives back its opcode, its fields, and
zeros at every must-be-zero bit. -/

namespace Sys2Proof

theorem SlotId.ofBits_bits (k : SlotId) : SlotId.ofBits k.bits = k := by cases k <;> decide

theorem SlotId.bits_ofBits (b : BitVec 2) : (SlotId.ofBits b).bits = b := by revert b; decide

/-- A slot number and its bits. -/
theorem slotField_of_bits {c : Command} {k : SlotId} (h : c.cw.extractLsb' 22 2 = k.bits) : c.slotField = k := by
  rw [Command.slotField, h, SlotId.ofBits_bits]

/-! ### Format N -/

theorem op_packN (op : BitVec 8) (d : Data) : (Command.mk (packN op) d).op = op := by
  simp only [Command.op, packN, place]
  ext i hi
  interval_cases i <;> simp

theorem mask_packN (op : BitVec 8) :
    packN op &&& Format.n.mask = op.setWidth 32 <<< 24 := by
  simp only [packN, place, Format.mask]
  ext i hi
  interval_cases i <;> simp

/-! ### Format S -/

theorem op_packS (op : BitVec 8) (k : SlotId) (d : Data) : (Command.mk (packS op k) d).op = op := by
  simp only [Command.op, packS, place]
  ext i hi
  interval_cases i <;> simp

theorem mask_packS (op : BitVec 8) (k : SlotId) :
    packS op k &&& Format.s.mask = op.setWidth 32 <<< 24 := by
  simp only [packS, place, Format.mask]
  ext i hi
  interval_cases i <;> simp

theorem slotField_packS (op : BitVec 8) (k : SlotId) (d : Data) :
    (Command.mk (packS op k) d).slotField = k := by
  refine slotField_of_bits ?_
  simp only [packS, place]
  ext i hi
  interval_cases i <;> simp

/-! ### Format P -/

theorem op_packP (op : BitVec 8) (k : SlotId) (speed : BitVec 3) (ext : Bool) (d : Data) : (Command.mk (packP op k speed ext) d).op = op := by
  simp only [Command.op, packP, place]
  ext i hi
  interval_cases i <;> simp

theorem mask_packP (op : BitVec 8) (k : SlotId) (speed : BitVec 3) (ext : Bool) :
    packP op k speed ext &&& Format.p.mask = op.setWidth 32 <<< 24 := by
  simp only [packP, place, Format.mask]
  ext i hi
  interval_cases i <;> simp

theorem slotField_packP (op : BitVec 8) (k : SlotId) (speed : BitVec 3) (ext : Bool) (d : Data) :
    (Command.mk (packP op k speed ext) d).slotField = k := by
  refine slotField_of_bits ?_
  simp only [packP, place]
  ext i hi
  interval_cases i <;> simp

theorem speedField_packP (op : BitVec 8) (k : SlotId) (speed : BitVec 3) (ext : Bool) (d : Data) :
    (Command.mk (packP op k speed ext) d).speedField = speed := by
  simp only [Command.speedField, packP, place]
  ext i hi
  interval_cases i <;> simp

theorem extField_packP (op : BitVec 8) (k : SlotId) (speed : BitVec 3) (ext : Bool) (d : Data) :
    (Command.mk (packP op k speed ext) d).extField = ext := by
  simp [Command.extField, packP, place]

/-! ### Format A -/

theorem op_packA (op : BitVec 8) (k : SlotId) (byte : Byte) (d : Data) : (Command.mk (packA op k byte) d).op = op := by
  simp only [Command.op, packA, place]
  ext i hi
  interval_cases i <;> simp

theorem mask_packA (op : BitVec 8) (k : SlotId) (byte : Byte) :
    packA op k byte &&& Format.a.mask = op.setWidth 32 <<< 24 := by
  simp only [packA, place, Format.mask]
  ext i hi
  interval_cases i <;> simp

theorem slotField_packA (op : BitVec 8) (k : SlotId) (byte : Byte) (d : Data) :
    (Command.mk (packA op k byte) d).slotField = k := by
  refine slotField_of_bits ?_
  simp only [packA, place]
  ext i hi
  interval_cases i <;> simp

theorem byteField_packA (op : BitVec 8) (k : SlotId) (byte : Byte) (d : Data) :
    (Command.mk (packA op k byte) d).byteField = byte := by
  simp only [Command.byteField, packA, place]
  ext i hi
  interval_cases i <;> simp

/-! ### Format O -/

theorem op_packO (op : BitVec 8) (k : SlotId) (off : BitVec 11) (d : Data) : (Command.mk (packO op k off) d).op = op := by
  simp only [Command.op, packO, place]
  ext i hi
  interval_cases i <;> simp

theorem mask_packO (op : BitVec 8) (k : SlotId) (off : BitVec 11) :
    packO op k off &&& Format.o.mask = op.setWidth 32 <<< 24 := by
  simp only [packO, place, Format.mask]
  ext i hi
  interval_cases i <;> simp

theorem slotField_packO (op : BitVec 8) (k : SlotId) (off : BitVec 11) (d : Data) :
    (Command.mk (packO op k off) d).slotField = k := by
  refine slotField_of_bits ?_
  simp only [packO, place]
  ext i hi
  interval_cases i <;> simp

theorem offField_packO (op : BitVec 8) (k : SlotId) (off : BitVec 11) (d : Data) :
    (Command.mk (packO op k off) d).offField = off := by
  simp only [Command.offField, packO, place]
  ext i hi
  interval_cases i <;> simp

/-! ### Format R -/

theorem op_packR (op : BitVec 8) (k : SlotId) (off n : BitVec 11) (d : Data) : (Command.mk (packR op k off n) d).op = op := by
  simp only [Command.op, packR, place]
  ext i hi
  interval_cases i <;> simp

theorem mask_packR (op : BitVec 8) (k : SlotId) (off n : BitVec 11) :
    packR op k off n &&& Format.r.mask = op.setWidth 32 <<< 24 := by
  simp only [packR, place, Format.mask]
  ext i hi
  interval_cases i <;> simp

theorem slotField_packR (op : BitVec 8) (k : SlotId) (off n : BitVec 11) (d : Data) :
    (Command.mk (packR op k off n) d).slotField = k := by
  refine slotField_of_bits ?_
  simp only [packR, place]
  ext i hi
  interval_cases i <;> simp

theorem offField_packR (op : BitVec 8) (k : SlotId) (off n : BitVec 11) (d : Data) :
    (Command.mk (packR op k off n) d).offField = off := by
  simp only [Command.offField, packR, place]
  ext i hi
  interval_cases i <;> simp

theorem nField_packR (op : BitVec 8) (k : SlotId) (off n : BitVec 11) (d : Data) :
    (Command.mk (packR op k off n) d).nField = n := by
  simp only [Command.nField, packR, place]
  ext i hi
  interval_cases i <;> simp

/-! ### Format E -/

theorem op_packE (op : BitVec 8) (etype : BitVec 4) (estruct : BitVec 3) (d : Data) : (Command.mk (packE op etype estruct) d).op = op := by
  simp only [Command.op, packE, place]
  ext i hi
  interval_cases i <;> simp

theorem mask_packE (op : BitVec 8) (etype : BitVec 4) (estruct : BitVec 3) :
    packE op etype estruct &&& Format.e.mask = op.setWidth 32 <<< 24 := by
  simp only [packE, place, Format.mask]
  ext i hi
  interval_cases i <;> simp

theorem etypeField_packE (op : BitVec 8) (etype : BitVec 4) (estruct : BitVec 3) (d : Data) :
    (Command.mk (packE op etype estruct) d).etypeField = etype := by
  simp only [Command.etypeField, packE, place]
  ext i hi
  interval_cases i <;> simp

theorem estructField_packE (op : BitVec 8) (etype : BitVec 4) (estruct : BitVec 3) (d : Data) :
    (Command.mk (packE op etype estruct) d).estructField = estruct := by
  simp only [Command.estructField, packE, place]
  ext i hi
  interval_cases i <;> simp

/-! ### Format H -/

theorem op_packH (op : BitVec 8) (h : BitVec 2) (idx : BitVec 16) (d : Data) : (Command.mk (packH op h idx) d).op = op := by
  simp only [Command.op, packH, place]
  ext i hi
  interval_cases i <;> simp

theorem mask_packH (op : BitVec 8) (h : BitVec 2) (idx : BitVec 16) :
    packH op h idx &&& Format.h.mask = op.setWidth 32 <<< 24 := by
  simp only [packH, place, Format.mask]
  ext i hi
  interval_cases i <;> simp

theorem histField_packH (op : BitVec 8) (h : BitVec 2) (idx : BitVec 16) (d : Data) :
    (Command.mk (packH op h idx) d).histField = h := by
  simp only [Command.histField, packH, place]
  ext i hi
  interval_cases i <;> simp

theorem idxField_packH (op : BitVec 8) (h : BitVec 2) (idx : BitVec 16) (d : Data) :
    (Command.mk (packH op h idx) d).idxField = idx := by
  simp only [Command.idxField, packH, place]
  ext i hi
  interval_cases i <;> simp

/-! ### Format K -/

theorem op_packK (op : BitVec 8) (c : BitVec 3) (d : Data) : (Command.mk (packK op c) d).op = op := by
  simp only [Command.op, packK, place]
  ext i hi
  interval_cases i <;> simp

theorem mask_packK (op : BitVec 8) (c : BitVec 3) :
    packK op c &&& Format.k.mask = op.setWidth 32 <<< 24 := by
  simp only [packK, place, Format.mask]
  ext i hi
  interval_cases i <;> simp

theorem cntField_packK (op : BitVec 8) (c : BitVec 3) (d : Data) :
    (Command.mk (packK op c) d).cntField = c := by
  simp only [Command.cntField, packK, place]
  ext i hi
  interval_cases i <;> simp

/-! ### Format D -/

theorem op_packD (op : BitVec 8) (a : BitVec 7) (d : Data) : (Command.mk (packD op a) d).op = op := by
  simp only [Command.op, packD, place]
  ext i hi
  interval_cases i <;> simp

theorem mask_packD (op : BitVec 8) (a : BitVec 7) :
    packD op a &&& Format.d.mask = op.setWidth 32 <<< 24 := by
  simp only [packD, place, Format.mask]
  ext i hi
  interval_cases i <;> simp

theorem devField_packD (op : BitVec 8) (a : BitVec 7) (d : Data) :
    (Command.mk (packD op a) d).devField = a := by
  simp only [Command.devField, packD, place]
  ext i hi
  interval_cases i <;> simp

/-! ### Write data -/

theorem cellData_setWidth (cw : Word) (v : Byte) : (Command.mk cw (v.setWidth 64)).cellData = v := by
  simp only [Command.cellData]
  ext i hi
  simp [hi]
  omega

theorem countData_setWidth (cw : Word) (v : Word) : (Command.mk cw (v.setWidth 64)).countData = v := by
  simp only [Command.countData]
  ext i hi
  simp [hi]
  omega

theorem countData_packEntry (cw : Word) (b : Bool) (v : Word) : (Command.mk cw (packEntry b v)).countData = v := by
  simp only [Command.countData, packEntry]
  ext i hi
  simp [hi]
  omega

theorem seenData_packEntry (cw : Word) (b : Bool) (v : Word) : (Command.mk cw (packEntry b v)).seenData = b := by
  simp [Command.seenData, packEntry]

end Sys2Proof
end

