-- ==== Sys2Proof/Laws/Packet.lean ====
section
/-! SUPPORT. What the packet functions do: the kind, `has`, the bit sequence, and the bits of an error set. -/

namespace Sys2Proof.Machine

/-! ### Kind -/

theorem Packet.kind_of_nil {p : Packet} (h : p.buf = []) : p.kind = .absent := by simp [Packet.kind, h]

theorem Packet.kind_of_cons {p : Packet} {b : Byte} {rest : List Byte} (h : p.buf = b :: rest) :
    p.kind = if p.ext then .ext2 else pidKind b := by simp [Packet.kind, h]

/-- No PID byte makes a packet absent or a continuation. -/
theorem pidKind_ne (b : Byte) : pidKind b ≠ .absent ∧ pidKind b ≠ .ext2 := by
  unfold pidKind
  repeat' split
  all_goals exact ⟨by decide, by decide⟩

/-- A packet is absent exactly when it is empty (spec/40_packet.md R110). -/
theorem Packet.kind_eq_absent_iff (p : Packet) : p.kind = .absent ↔ p.buf = [] := by
  cases h : p.buf with
  | nil => simp [Packet.kind_of_nil h]
  | cons b rest =>
    rw [Packet.kind_of_cons h]
    split
    · simp
    · simp [(pidKind_ne b).1]

/-- `has` unfolded once (spec/40_packet.md R111). -/
theorem Packet.has_iff (p : Packet) (ks : List Kind) :
    p.has ks = true ↔ p.kind ∈ ks ∧ ∃ m, p.kind.minlen = some m ∧ m ≤ p.len := by
  unfold Packet.has
  cases h : p.kind.minlen with
  | none => simp
  | some m => simp

/-! ### The bit sequence -/

@[simp] theorem length_byteBits (b : Byte) : (byteBits b).length = 8 := rfl

theorem byteBits_getElem? (b : Byte) {i : Nat} (h : i < 8) : (byteBits b)[i]? = some (b.getLsbD i) := by
  interval_cases i <;> rfl

theorem length_flatMap_byteBits (l : List Byte) : (l.flatMap byteBits).length = 8 * l.length := by
  induction l with
  | nil => rfl
  | cons b l ih =>
    rw [List.flatMap_cons, List.length_append, ih, length_byteBits, List.length_cons]
    ring

/-- A range inside the packet gives as many bits as it asks for. -/
theorem length_bitstream {buf : List Byte} {off n : Nat} (h : 8 * off + n ≤ 8 * buf.length) :
    (bitstream buf off n).length = n := by
  rw [bitstream, List.length_take, length_flatMap_byteBits, List.length_drop]
  omega

/-- A byte's bits stand eight by eight in the sequence. -/
theorem flatMap_byteBits_getElem? (l : List Byte) (i : Nat) :
    (l.flatMap byteBits)[i]? = l[i / 8]?.map fun b => b.getLsbD (i % 8) := by
  induction l generalizing i with
  | nil => simp
  | cons b l ih =>
    rw [List.flatMap_cons]
    by_cases h : i < 8
    · rw [List.getElem?_append_left (by simpa using h), byteBits_getElem? b h]
      have h0 : i / 8 = 0 := by omega
      have h1 : i % 8 = i := by omega
      simp [h0, h1]
    · rw [List.getElem?_append_right (by simpa using Nat.le_of_not_lt h), length_byteBits, ih]
      have h0 : i / 8 = (i - 8) / 8 + 1 := by omega
      have h1 : i % 8 = (i - 8) % 8 := by omega
      rw [h0, h1, List.getElem?_cons_succ]

/-! ### Error sets -/

theorem getLsbD_errBit (n : Nat) (b : Bool) (i : Nat) :
    (errBit n b).getLsbD i = (b && decide (i = n) && decide (i < 16)) := by
  cases b
  · simp [errBit]
  · simp only [errBit, if_true, Bool.true_and]
    rw [BitVec.getLsbD_shiftLeft]
    by_cases h : i = n
    · subst h
      by_cases h16 : i < 16 <;> simp [h16]
    · by_cases h16 : i < 16
      · by_cases hn : i < n
        · simp [h, hn]
        · have : i - n ≠ 0 := by omega
          simp [h, h16, this]
      · simp [h16, h]

end Sys2Proof.Machine
end

