-- ==== Sys2Proof/Laws/PerInstr.lean ====
section
/-! SUPPORT. Per command: its encoding is an instance of the opcode table's row that carries its opcode
(spec/30_encoding.md R71, R72). -/

namespace Sys2Proof.Laws

/-- The encoded word of `i` matches the row of its opcode: the row is found, and the word's fixed bits are the row's. -/
def MatchesRow.Statement (i : Instr) : Prop :=
  ∃ r, rowOf (encode i) = some r ∧ r.fits (encode i) = true

/-- A word whose opcode a row carries and whose fixed bits are the row's matches that row. -/
theorem MatchesRow.of_row {i : Instr} {r : OpRow} {op : BitVec 8} (hop : (encode i).op = op)
    (hr : (opTable.find? fun r => r.op == op) = some r)
    (hm : (encode i).cw &&& r.fmt.mask = r.op.setWidth 32 <<< 24) : MatchesRow.Statement i := by
  refine ⟨r, by rw [rowOf, hop, hr], by simpa [OpRow.fits] using hm⟩

theorem MatchesRow.nop : MatchesRow.Statement (.nop) :=
  MatchesRow.of_row (op_packN 0x00#8 _) rfl (mask_packN 0x00#8)

theorem MatchesRow.pktClr (k : SlotId) : MatchesRow.Statement (.pktClr k) :=
  MatchesRow.of_row (op_packS 0x10#8 _ _) rfl (mask_packS 0x10#8 _)

theorem MatchesRow.pktSet (k : SlotId) (speed : BitVec 3) (ext : Bool) (time : Time) : MatchesRow.Statement (.pktSet k speed ext time) :=
  MatchesRow.of_row (op_packP 0x11#8 _ _ _ _) rfl (mask_packP 0x11#8 _ _ _)

theorem MatchesRow.pktApp (k : SlotId) (byte : Byte) : MatchesRow.Statement (.pktApp k byte) :=
  MatchesRow.of_row (op_packA 0x12#8 _ _ _) rfl (mask_packA 0x12#8 _ _)

theorem MatchesRow.pktRb (k : SlotId) (off : BitVec 11) : MatchesRow.Statement (.pktRb k off) :=
  MatchesRow.of_row (op_packO 0x13#8 _ _ _) rfl (mask_packO 0x13#8 _ _)

theorem MatchesRow.pktLen (k : SlotId) : MatchesRow.Statement (.pktLen k) :=
  MatchesRow.of_row (op_packS 0x14#8 _ _) rfl (mask_packS 0x14#8 _)

theorem MatchesRow.pktTime (k : SlotId) : MatchesRow.Statement (.pktTime k) :=
  MatchesRow.of_row (op_packS 0x15#8 _ _) rfl (mask_packS 0x15#8 _)

theorem MatchesRow.pktAttr (k : SlotId) : MatchesRow.Statement (.pktAttr k) :=
  MatchesRow.of_row (op_packS 0x16#8 _ _) rfl (mask_packS 0x16#8 _)

theorem MatchesRow.pktEmpty (k : SlotId) : MatchesRow.Statement (.pktEmpty k) :=
  MatchesRow.of_row (op_packS 0x20#8 _ _) rfl (mask_packS 0x20#8 _)

theorem MatchesRow.pktPid (k : SlotId) : MatchesRow.Statement (.pktPid k) :=
  MatchesRow.of_row (op_packS 0x21#8 _ _) rfl (mask_packS 0x21#8 _)

theorem MatchesRow.pktSubpid (k : SlotId) : MatchesRow.Statement (.pktSubpid k) :=
  MatchesRow.of_row (op_packS 0x22#8 _ _) rfl (mask_packS 0x22#8 _)

theorem MatchesRow.pktType (k : SlotId) : MatchesRow.Statement (.pktType k) :=
  MatchesRow.of_row (op_packS 0x23#8 _ _) rfl (mask_packS 0x23#8 _)

theorem MatchesRow.pktAddr (k : SlotId) : MatchesRow.Statement (.pktAddr k) :=
  MatchesRow.of_row (op_packS 0x24#8 _ _) rfl (mask_packS 0x24#8 _)

theorem MatchesRow.pktEndp (k : SlotId) : MatchesRow.Statement (.pktEndp k) :=
  MatchesRow.of_row (op_packS 0x25#8 _ _) rfl (mask_packS 0x25#8 _)

theorem MatchesRow.pktFrame (k : SlotId) : MatchesRow.Statement (.pktFrame k) :=
  MatchesRow.of_row (op_packS 0x26#8 _ _) rfl (mask_packS 0x26#8 _)

theorem MatchesRow.pktHubaddr (k : SlotId) : MatchesRow.Statement (.pktHubaddr k) :=
  MatchesRow.of_row (op_packS 0x27#8 _ _) rfl (mask_packS 0x27#8 _)

theorem MatchesRow.pktHubport (k : SlotId) : MatchesRow.Statement (.pktHubport k) :=
  MatchesRow.of_row (op_packS 0x28#8 _ _) rfl (mask_packS 0x28#8 _)

theorem MatchesRow.pktSc (k : SlotId) : MatchesRow.Statement (.pktSc k) :=
  MatchesRow.of_row (op_packS 0x29#8 _ _) rfl (mask_packS 0x29#8 _)

theorem MatchesRow.pktS (k : SlotId) : MatchesRow.Statement (.pktS k) :=
  MatchesRow.of_row (op_packS 0x2A#8 _ _) rfl (mask_packS 0x2A#8 _)

theorem MatchesRow.pktE (k : SlotId) : MatchesRow.Statement (.pktE k) :=
  MatchesRow.of_row (op_packS 0x2B#8 _ _) rfl (mask_packS 0x2B#8 _)

theorem MatchesRow.pktEt (k : SlotId) : MatchesRow.Statement (.pktEt k) :=
  MatchesRow.of_row (op_packS 0x2C#8 _ _) rfl (mask_packS 0x2C#8 _)

theorem MatchesRow.pktCrc5 (k : SlotId) : MatchesRow.Statement (.pktCrc5 k) :=
  MatchesRow.of_row (op_packS 0x2D#8 _ _) rfl (mask_packS 0x2D#8 _)

theorem MatchesRow.pktCrc5c (k : SlotId) : MatchesRow.Statement (.pktCrc5c k) :=
  MatchesRow.of_row (op_packS 0x2E#8 _ _) rfl (mask_packS 0x2E#8 _)

theorem MatchesRow.pktCrc16 (k : SlotId) : MatchesRow.Statement (.pktCrc16 k) :=
  MatchesRow.of_row (op_packS 0x2F#8 _ _) rfl (mask_packS 0x2F#8 _)

theorem MatchesRow.pktCrc16c (k : SlotId) : MatchesRow.Statement (.pktCrc16c k) :=
  MatchesRow.of_row (op_packS 0x30#8 _ _) rfl (mask_packS 0x30#8 _)

theorem MatchesRow.pktErrs (k : SlotId) : MatchesRow.Statement (.pktErrs k) :=
  MatchesRow.of_row (op_packS 0x31#8 _ _) rfl (mask_packS 0x31#8 _)

theorem MatchesRow.pktValid (k : SlotId) : MatchesRow.Statement (.pktValid k) :=
  MatchesRow.of_row (op_packS 0x32#8 _ _) rfl (mask_packS 0x32#8 _)

theorem MatchesRow.crc5 (k : SlotId) (off : BitVec 11) (n : BitVec 11) : MatchesRow.Statement (.crc5 k off n) :=
  MatchesRow.of_row (op_packR 0x40#8 _ _ _ _) rfl (mask_packR 0x40#8 _ _ _)

theorem MatchesRow.crc16 (k : SlotId) (off : BitVec 11) (n : BitVec 11) : MatchesRow.Statement (.crc16 k off n) :=
  MatchesRow.of_row (op_packR 0x41#8 _ _ _ _) rfl (mask_packR 0x41#8 _ _ _)

theorem MatchesRow.elmSet (etype : BitVec 4) (estruct : BitVec 3) (time : Time) : MatchesRow.Statement (.elmSet etype estruct time) :=
  MatchesRow.of_row (op_packE 0x50#8 _ _ _) rfl (mask_packE 0x50#8 _ _)

theorem MatchesRow.elmType : MatchesRow.Statement (.elmType) :=
  MatchesRow.of_row (op_packN 0x51#8 _) rfl (mask_packN 0x51#8)

theorem MatchesRow.elmTime : MatchesRow.Statement (.elmTime) :=
  MatchesRow.of_row (op_packN 0x52#8 _) rfl (mask_packN 0x52#8)

theorem MatchesRow.elmEmpty : MatchesRow.Statement (.elmEmpty) :=
  MatchesRow.of_row (op_packN 0x53#8 _) rfl (mask_packN 0x53#8)

theorem MatchesRow.elmAddr : MatchesRow.Statement (.elmAddr) :=
  MatchesRow.of_row (op_packN 0x54#8 _) rfl (mask_packN 0x54#8)

theorem MatchesRow.elmEndp : MatchesRow.Statement (.elmEndp) :=
  MatchesRow.of_row (op_packN 0x55#8 _) rfl (mask_packN 0x55#8)

theorem MatchesRow.elmSpeed : MatchesRow.Statement (.elmSpeed) :=
  MatchesRow.of_row (op_packN 0x56#8 _) rfl (mask_packN 0x56#8)

theorem MatchesRow.elmErrs : MatchesRow.Statement (.elmErrs) :=
  MatchesRow.of_row (op_packN 0x57#8 _) rfl (mask_packN 0x57#8)

theorem MatchesRow.elmValid : MatchesRow.Statement (.elmValid) :=
  MatchesRow.of_row (op_packN 0x58#8 _) rfl (mask_packN 0x58#8)

theorem MatchesRow.init : MatchesRow.Statement (.init) :=
  MatchesRow.of_row (op_packN 0x60#8 _) rfl (mask_packN 0x60#8)

theorem MatchesRow.final : MatchesRow.Statement (.final) :=
  MatchesRow.of_row (op_packN 0x61#8 _) rfl (mask_packN 0x61#8)

theorem MatchesRow.elmPush : MatchesRow.Statement (.elmPush) :=
  MatchesRow.of_row (op_packN 0x62#8 _) rfl (mask_packN 0x62#8)

theorem MatchesRow.decay : MatchesRow.Statement (.decay) :=
  MatchesRow.of_row (op_packN 0x63#8 _) rfl (mask_packN 0x63#8)

theorem MatchesRow.clear : MatchesRow.Statement (.clear) :=
  MatchesRow.of_row (op_packN 0x64#8 _) rfl (mask_packN 0x64#8)

theorem MatchesRow.histRd (h : BitVec 2) (idx : BitVec 16) : MatchesRow.Statement (.histRd h idx) :=
  MatchesRow.of_row (op_packH 0x70#8 _ _ _) rfl (mask_packH 0x70#8 _ _)

theorem MatchesRow.histWr (h : BitVec 2) (idx : BitVec 16) (v : Byte) : MatchesRow.Statement (.histWr h idx v) :=
  MatchesRow.of_row (op_packH 0x71#8 _ _ _) rfl (mask_packH 0x71#8 _ _)

theorem MatchesRow.histClr : MatchesRow.Statement (.histClr) :=
  MatchesRow.of_row (op_packN 0x72#8 _) rfl (mask_packN 0x72#8)

theorem MatchesRow.cntRd (c : BitVec 3) : MatchesRow.Statement (.cntRd c) :=
  MatchesRow.of_row (op_packK 0x73#8 _ _) rfl (mask_packK 0x73#8 _)

theorem MatchesRow.cntWr (c : BitVec 3) (v : Word) : MatchesRow.Statement (.cntWr c v) :=
  MatchesRow.of_row (op_packK 0x74#8 _ _) rfl (mask_packK 0x74#8 _)

theorem MatchesRow.devRd (a : BitVec 7) : MatchesRow.Statement (.devRd a) :=
  MatchesRow.of_row (op_packD 0x75#8 _ _) rfl (mask_packD 0x75#8 _)

theorem MatchesRow.devWr (a : BitVec 7) (seen : Bool) (count : Word) : MatchesRow.Statement (.devWr a seen count) :=
  MatchesRow.of_row (op_packD 0x76#8 _ _) rfl (mask_packD 0x76#8 _)

theorem MatchesRow.devLast : MatchesRow.Statement (.devLast) :=
  MatchesRow.of_row (op_packN 0x77#8 _) rfl (mask_packN 0x77#8)

theorem MatchesRow.statRd : MatchesRow.Statement (.statRd) :=
  MatchesRow.of_row (op_packN 0x78#8 _) rfl (mask_packN 0x78#8)

theorem MatchesRow.orgRd : MatchesRow.Statement (.orgRd) :=
  MatchesRow.of_row (op_packN 0x79#8 _) rfl (mask_packN 0x79#8)

end Sys2Proof.Laws
end

