-- ==== Sys2Proof/Tests/Slice0.lean ====
section
/-! SUPPORT. The model's own tests: the ill-formed terms, decoding of words written out from the spec's encodings, one
or two single-step tests per command with the values of spec/95_test_vectors.md and of the rules' examples, and for each
statement with hypotheses a witness that meets them. -/

namespace Sys2Proof.Tests

open Sys2Proof.Machine Sys2Proof.Stmt

set_option maxRecDepth 20000

/-! ### Helpers -/

/-- A packet from its bytes, time and speed. -/
def pkt (buf : List Byte) (time : Time) (speed : Speed) (ext : Bool := false) : Packet := ⟨buf, time, speed, ext⟩

/-- A state with the four slots given and everything else as after reset. -/
def holding (spl tok dat hsk : Packet) : State := { State.reset with slots := ⟨spl, tok, dat, hsk⟩ }

/-- The empty slot. -/
def none' : Packet := Packet.cleared

/-- The state after one command. -/
def after (i : Instr) (s : State) : State :=
  match exec i s with
  | .next t => t
  | .fault _ => s
  | .refused _ => s

/-- The response to one command. -/
def ask (i : Instr) (s : State) : Option Response := (after i s).responses.getLast?

/-- The response to one command word with write data, by a whole step. -/
def askWord (cw : Word) (wdata : Data) (s : State) : Option Response :=
  match step { s with inputs := [.command ⟨cw, wdata⟩] } with
  | .next t => t.responses.getLast?
  | .fault _ => none
  | .refused _ => none

/-- The response `rdata = v`. -/
def data (v : Data) : Option Response := some ⟨v, false, 0#3, false⟩

/-- The response `unk = 1`. -/
def unk : Option Response := some ⟨0#64, true, 0#3, false⟩

/-- The response `cerr = c`. -/
def err (c : BitVec 3) : Option Response := some ⟨0#64, false, c, false⟩

/-- Slot 0 `78 92 83 AC`, slot 1 `69 05 F9`, slot 2 `C3 00 01 02 03 EF 7A`, slot 3 `D2`, all high speed (the packets of
spec/95_test_vectors.md 2.1). -/
def good : State :=
  holding (pkt [0x78#8, 0x92#8, 0x83#8, 0xAC#8] 82400#64 .high) (pkt [0x69#8, 0x05#8, 0xF9#8] 600#64 .high)
    (pkt [0xC3#8, 0x00#8, 0x01#8, 0x02#8, 0x03#8, 0xEF#8, 0x7A#8] 610#64 .high) (pkt [0xD2#8] 630#64 .high)

/-- Slot 0 `78 92 83`, slot 1 `69 05`, slot 2 `C3 12`, slot 3 empty: each one byte short (vector E1). -/
def short : State :=
  holding (pkt [0x78#8, 0x92#8, 0x83#8] 0#64 .high) (pkt [0x69#8, 0x05#8] 0#64 .high) (pkt [0xC3#8, 0x12#8] 0#64 .high) none'

/-- Slot 0 `A5 A5 BA` (frame 0x2A5), slot 1 the flagged `C3 41 99`, slot 2 `00`, slot 3 `5A`. -/
def mixed : State :=
  holding (pkt [0xA5#8, 0xA5#8, 0xBA#8] 75000#64 .high) (pkt [0xC3#8, 0x41#8, 0x99#8] 0#64 .lowPrefixed true)
    (pkt [0x00#8] 0#64 .low) (pkt [0x5A#8] 0#64 .full)

/-! ### WellFormed: each check refuses an ill-formed term -/

theorem test_speed_five_is_ill_formed : (Instr.pktSet .tok 5#3 false 0#64).wellFormed = false := by decide
theorem test_etype_eleven_is_ill_formed : (Instr.elmSet 11#4 0#3 0#64).wellFormed = false := by decide
theorem test_hist_select_three_is_ill_formed :
    (Instr.histRd 3#2 0#16).wellFormed = false ∧ (Instr.histWr 3#2 0#16 0#8).wellFormed = false := by decide
theorem test_largest_legal_codes_are_well_formed :
    (Instr.pktSet .tok 4#3 true 0#64).wellFormed = true ∧ (Instr.elmSet 10#4 7#3 0#64).wellFormed = true ∧
    (Instr.histWr 2#2 65535#16 0#8).wellFormed = true := by decide

/-! ### Decode: words written out from spec/30_encoding.md R71 and R72 -/

/-- Words of format S, slot `TOK` at bits 23..22. -/
theorem test_decode_packet_reads :
    decode ⟨0b00010000_01_0000000000000000000000#32, 0#64⟩ = .ok (.pktClr .tok) ∧
    decode ⟨0b00010100_01_0000000000000000000000#32, 0#64⟩ = .ok (.pktLen .tok) ∧
    decode ⟨0b00010101_01_0000000000000000000000#32, 0#64⟩ = .ok (.pktTime .tok) ∧
    decode ⟨0b00010110_01_0000000000000000000000#32, 0#64⟩ = .ok (.pktAttr .tok) ∧
    decode ⟨0b00100000_01_0000000000000000000000#32, 0#64⟩ = .ok (.pktEmpty .tok) ∧
    decode ⟨0b00100001_01_0000000000000000000000#32, 0#64⟩ = .ok (.pktPid .tok) ∧
    decode ⟨0b00100010_01_0000000000000000000000#32, 0#64⟩ = .ok (.pktSubpid .tok) ∧
    decode ⟨0b00100011_01_0000000000000000000000#32, 0#64⟩ = .ok (.pktType .tok) := by decide

theorem test_decode_packet_fields :
    decode ⟨0b00100100_01_0000000000000000000000#32, 0#64⟩ = .ok (.pktAddr .tok) ∧
    decode ⟨0b00100101_01_0000000000000000000000#32, 0#64⟩ = .ok (.pktEndp .tok) ∧
    decode ⟨0b00100110_00_0000000000000000000000#32, 0#64⟩ = .ok (.pktFrame .spl) ∧
    decode ⟨0b00100111_00_0000000000000000000000#32, 0#64⟩ = .ok (.pktHubaddr .spl) ∧
    decode ⟨0b00101000_00_0000000000000000000000#32, 0#64⟩ = .ok (.pktHubport .spl) ∧
    decode ⟨0b00101001_00_0000000000000000000000#32, 0#64⟩ = .ok (.pktSc .spl) ∧
    decode ⟨0b00101010_00_0000000000000000000000#32, 0#64⟩ = .ok (.pktS .spl) ∧
    decode ⟨0b00101011_00_0000000000000000000000#32, 0#64⟩ = .ok (.pktE .spl) ∧
    decode ⟨0b00101100_00_0000000000000000000000#32, 0#64⟩ = .ok (.pktEt .spl) := by decide

theorem test_decode_packet_checks :
    decode ⟨0b00101101_11_0000000000000000000000#32, 0#64⟩ = .ok (.pktCrc5 .hsk) ∧
    decode ⟨0b00101110_11_0000000000000000000000#32, 0#64⟩ = .ok (.pktCrc5c .hsk) ∧
    decode ⟨0b00101111_10_0000000000000000000000#32, 0#64⟩ = .ok (.pktCrc16 .dat) ∧
    decode ⟨0b00110000_10_0000000000000000000000#32, 0#64⟩ = .ok (.pktCrc16c .dat) ∧
    decode ⟨0b00110001_10_0000000000000000000000#32, 0#64⟩ = .ok (.pktErrs .dat) ∧
    decode ⟨0b00110010_10_0000000000000000000000#32, 0#64⟩ = .ok (.pktValid .dat) := by decide

/-- Formats P, A, O and R; the words are those of the examples of R113, R114, R115, R154, R155. -/
theorem test_decode_packet_operands :
    decode ⟨0b00010001_01_011_0_000000000000000000#32, 600#64⟩ = .ok (.pktSet .tok 3#3 false 600#64) ∧
    decode ⟨0x11640000#32, 0xFFFFFFFFFFFFFFFF#64⟩ = .ok (.pktSet .tok 4#3 true 0xFFFFFFFFFFFFFFFF#64) ∧
    decode ⟨0b00010010_01_00000000000000_01101001#32, 0#64⟩ = .ok (.pktApp .tok 0x69#8) ∧
    decode ⟨0b00010011_01_00000000010_00000000000#32, 0#64⟩ = .ok (.pktRb .tok 2#11) ∧
    decode ⟨0x137FF800#32, 0#64⟩ = .ok (.pktRb .tok 2047#11) ∧
    decode ⟨0b01000000_01_00000000001_00000001011#32, 0#64⟩ = .ok (.crc5 .tok 1#11 11#11) ∧
    decode ⟨0x40FFFFFF#32, 0#64⟩ = .ok (.crc5 .hsk 2047#11 2047#11) ∧
    decode ⟨0b01000001_10_00000000001_00000000100#32, 0#64⟩ = .ok (.crc16 .dat 1#11 4#11) := by decide

/-- Format E and the format N words of the element family. -/
theorem test_decode_element :
    decode ⟨0b01010000_0011_100_00000000000000000#32, 82400#64⟩ = .ok (.elmSet 3#4 4#3 82400#64) ∧
    decode ⟨0b01010001_000000000000000000000000#32, 0#64⟩ = .ok .elmType ∧
    decode ⟨0b01010010_000000000000000000000000#32, 0#64⟩ = .ok .elmTime ∧
    decode ⟨0b01010011_000000000000000000000000#32, 0#64⟩ = .ok .elmEmpty ∧
    decode ⟨0b01010100_000000000000000000000000#32, 0#64⟩ = .ok .elmAddr ∧
    decode ⟨0b01010101_000000000000000000000000#32, 0#64⟩ = .ok .elmEndp ∧
    decode ⟨0b01010110_000000000000000000000000#32, 0#64⟩ = .ok .elmSpeed ∧
    decode ⟨0b01010111_000000000000000000000000#32, 0#64⟩ = .ok .elmErrs ∧
    decode ⟨0b01011000_000000000000000000000000#32, 0#64⟩ = .ok .elmValid := by decide

theorem test_decode_session :
    decode ⟨0b00000000_000000000000000000000000#32, 9#64⟩ = .ok .nop ∧
    decode ⟨0b01100000_000000000000000000000000#32, 9#64⟩ = .ok .init ∧
    decode ⟨0b01100001_000000000000000000000000#32, 9#64⟩ = .ok .final ∧
    decode ⟨0b01100010_000000000000000000000000#32, 9#64⟩ = .ok .elmPush ∧
    decode ⟨0b01100011_000000000000000000000000#32, 9#64⟩ = .ok .decay ∧
    decode ⟨0b01100100_000000000000000000000000#32, 9#64⟩ = .ok .clear := by decide

/-- Formats H, K and D; the words are those of spec/95_test_vectors.md 2.6, ignored write-data bits set. -/
theorem test_decode_transfer :
    decode ⟨0b01110000_10_000000_0000001111101000#32, 0#64⟩ = .ok (.histRd 2#2 1000#16) ∧
    decode ⟨0b01110001_01_000000_0000000000000000#32, 0x1FF#64⟩ = .ok (.histWr 1#2 0#16 0xFF#8) ∧
    decode ⟨0b01110010_000000000000000000000000#32, 0#64⟩ = .ok .histClr ∧
    decode ⟨0b01110011_000000000000000000000_011#32, 0#64⟩ = .ok (.cntRd 3#3) ∧
    decode ⟨0b01110100_000000000000000000000_101#32, 0x1FFFFFFFF#64⟩ = .ok (.cntWr 5#3 0xFFFFFFFF#32) ∧
    decode ⟨0b01110101_00000000000000000_0000101#32, 0#64⟩ = .ok (.devRd 5#7) ∧
    decode ⟨0b01110110_00000000000000000_0010010#32, 0x100000007#64⟩ = .ok (.devWr 0x12#7 true 7#32) ∧
    decode ⟨0x76000000#32, 0x3FFFFFFFF#64⟩ = .ok (.devWr 0#7 true 0xFFFFFFFF#32) ∧
    decode ⟨0b01110111_000000000000000000000000#32, 0#64⟩ = .ok .devLast ∧
    decode ⟨0b01111000_000000000000000000000000#32, 0#64⟩ = .ok .statRd ∧
    decode ⟨0b01111001_000000000000000000000000#32, 0#64⟩ = .ok .orgRd := by decide

/-- The refused words of spec/95_test_vectors.md 2.7: unassigned opcodes. -/
theorem test_decode_illegal :
    [0xFF000000#32, 0xFFFFFFFF#32, 0x01000000#32, 0x33000000#32, 0x65000000#32, 0x7A000000#32].all
      (fun cw => decide (decode ⟨cw, 0#64⟩ = .error .illegalOp)) = true := by decide

/-- The refused words of spec/95_test_vectors.md 2.3, 2.6 and 2.7: must-be-zero bits and reserved enumerants. -/
theorem test_decode_reserved :
    [0x00000001#32, 0x10400001#32, 0x12400100#32, 0x13400001#32, 0x11680000#32, 0x11780000#32, 0x62000001#32, 0x50B00000#32,
      0x50210000#32, 0x70C00000#32, 0x70C02328#32, 0x73000008#32, 0x75000080#32].all
      (fun cw => decide (decode ⟨cw, 0#64⟩ = .error .reserved)) = true := by decide

/-- `encode` gives the words of the examples of spec/95_test_vectors.md. -/
theorem test_encode :
    encode (.pktSet .tok 3#3 false 600#64) = ⟨0x11580000#32, 600#64⟩ ∧ encode (.pktApp .tok 0x69#8) = ⟨0x12400069#32, 0#64⟩ ∧
    encode (.pktRb .tok 3#11) = ⟨0x13401800#32, 0#64⟩ ∧ encode (.crc16 .dat 1#11 4#11) = ⟨0x41800804#32, 0#64⟩ ∧
    encode (.elmSet 3#4 1#3 0#64) = ⟨0x50320000#32, 0#64⟩ ∧ encode (.histRd 2#2 1000#16) = ⟨0x708003E8#32, 0#64⟩ ∧
    encode (.histWr 1#2 7499#16 0xFF#8) = ⟨0x71401D4B#32, 0xFF#64⟩ ∧
    encode (.devWr 0x12#7 true 7#32) = ⟨0x76000012#32, 0x100000007#64⟩ := by decide

/-- The host's hooks: a table word is decoded and run by the very next step. -/
theorem test_table_word :
    decodeTableWord 32 0x60000000 = some .init ∧ decodeTableWord 32 0xFF000000 = none ∧
    (match step (State.reset.withFetchWord 32 0x60000000) with
      | .next t => t.phase
      | .fault _ => .idle
      | .refused _ => .idle) = .run := by decide

/-! ### Sink chain (spec/95_test_vectors.md 2.4) -/

theorem test_nop : ask .nop State.reset = data 0#64 := by decide
theorem test_init : (after .init State.reset).phase = .run ∧ ask .init { State.reset with phase := .run } = err 4#3 := by
  decide
theorem test_init_zeroes : (after .init { State.reset with phase := .done, origin := 5#64 }).origin = 0#64 := by decide
theorem test_final : (after .final { State.reset with phase := .run }).phase = .done ∧ ask .final State.reset = err 4#3 := by
  decide

/-! ### Loading a slot and reading it back (spec/40_packet.md R112 to R118) -/

theorem test_pktClr : (after (.pktClr .tok) good).slot .tok = none' ∧ (after (.pktClr .tok) good).slot .hsk = good.slot .hsk := by
  decide
theorem test_pktSet : (after (.pktSet .tok 4#3 true 0xFFFFFFFFFFFFFFFF#64) good).slot .tok =
    pkt [] 0xFFFFFFFFFFFFFFFF#64 .lowPrefixed true := by decide
theorem test_pktSet_reserved : ask (.pktSet .tok 5#3 false 0#64) good = err 2#3 ∧
    (after (.pktSet .tok 7#3 false 0#64) good).slot .tok = good.slot .tok := by decide
theorem test_pktApp : ((after (.pktApp .hsk 0x01#8) good).slot .hsk).buf = [0xD2#8, 0x01#8] := by decide
theorem test_pktApp_full :
    exec (.pktApp .tok 0#8) (holding none' (pkt (List.replicate 2047 0#8) 0#64 .high) none' none') =
      .next ((holding none' (pkt (List.replicate 2047 0#8) 0#64 .high) none' none').cmdError .range) := by
  simp [exec, execPktApp, holding, State.slot, Packet.len, pkt, Config.pktMax]
theorem test_pktRb : ask (.pktRb .tok 2#11) good = data 0xF9#64 ∧ ask (.pktRb .tok 3#11) good = unk := by decide
theorem test_pktLen : ask (.pktLen .tok) good = data 3#64 ∧ ask (.pktLen .hsk) short = data 0#64 := by decide
theorem test_pktTime : ask (.pktTime .tok) good = data 600#64 := by decide
theorem test_pktAttr : ask (.pktAttr .tok) good = data 3#64 ∧ ask (.pktAttr .tok) mixed = data 0xC#64 := by decide

/-! ### Accessors (spec/95_test_vectors.md 2.1; E1 for the short packets) -/

theorem test_pktEmpty : ask (.pktEmpty .tok) good = data 0#64 ∧ ask (.pktEmpty .hsk) short = data 1#64 := by decide
theorem test_pktPid : ask (.pktPid .tok) short = data 0x69#64 ∧ ask (.pktPid .hsk) short = unk := by decide
theorem test_pktSubpid : ask (.pktSubpid .tok) mixed = data 0xC3#64 ∧ ask (.pktSubpid .tok) good = unk := by decide
theorem test_pktSubpid_short : ask (.pktSubpid .tok) (holding none' (pkt [0xC3#8] 0#64 .high true) none' none') = data 0xC3#64 ∧
    ask (.pktSubpid .tok) (holding none' (pkt [] 0#64 .high true) none' none') = unk := by decide
theorem test_pktType : ask (.pktType .spl) mixed = data 0#64 ∧ ask (.pktType .tok) good = data 1#64 ∧
    ask (.pktType .dat) good = data 2#64 ∧ ask (.pktType .hsk) good = data 3#64 := by decide
theorem test_pktType_others : ask (.pktType .spl) good = data 4#64 ∧ ask (.pktType .tok) mixed = data 5#64 ∧
    ask (.pktType .dat) mixed = data 6#64 ∧ ask (.pktType .hsk) short = data 6#64 := by decide
theorem test_pktAddr : ask (.pktAddr .tok) good = data 5#64 ∧ ask (.pktAddr .tok) short = unk := by decide
theorem test_pktEndp : ask (.pktEndp .tok) good = data 2#64 ∧
    ask (.pktEndp .tok) (holding none' (pkt [0xE1#8, 0x3A#8, 0x3D#8] 0#64 .full) none' none') = data 0xA#64 := by decide
theorem test_pktFrame : ask (.pktFrame .spl) mixed = data 0x2A5#64 ∧ ask (.pktFrame .tok) good = unk := by decide
theorem test_pktHubaddr : ask (.pktHubaddr .spl) good = data 0x12#64 ∧ ask (.pktHubaddr .spl) short = unk := by decide
theorem test_pktHubport : ask (.pktHubport .spl) good = data 3#64 ∧ ask (.pktHubport .spl) short = unk := by decide
theorem test_pktSc : ask (.pktSc .spl) good = data 1#64 ∧ ask (.pktSc .spl) short = unk := by decide
theorem test_pktS : ask (.pktS .spl) good = data 1#64 ∧ ask (.pktS .spl) short = unk := by decide
theorem test_pktE : ask (.pktE .spl) good = data 0#64 ∧
    ask (.pktE .spl) (holding (pkt [0x78#8, 0xFF#8, 0xFF#8, 0x7F#8] 0#64 .high) none' none' none') = data 1#64 := by decide
theorem test_pktEt : ask (.pktEt .spl) good = data 2#64 ∧ ask (.pktEt .spl) short = unk := by decide
theorem test_pktCrc5 : ask (.pktCrc5 .tok) good = data 0x1F#64 ∧ ask (.pktCrc5 .spl) good = data 0x15#64 := by decide
theorem test_pktCrc5c : ask (.pktCrc5c .tok) good = data 0x1F#64 ∧ ask (.pktCrc5c .spl) good = data 0x15#64 := by decide
theorem test_pktCrc16 : ask (.pktCrc16 .dat) good = data 0x7AEF#64 ∧ ask (.pktCrc16 .dat) short = unk := by decide
theorem test_pktCrc16c : ask (.pktCrc16c .dat) good = data 0x7AEF#64 ∧
    ask (.pktCrc16c .dat) (holding none' none' (pkt [0xC3#8, 0xFF#8, 0xFF#8] 0#64 .high) none') = data 0#64 := by decide
theorem test_pktErrs : ask (.pktErrs .spl) short = data 0x34#64 ∧ ask (.pktErrs .tok) short = data 0x1C#64 ∧
    ask (.pktErrs .dat) short = data 4#64 ∧ ask (.pktErrs .dat) mixed = data 1#64 := by decide
theorem test_pktErrs_crc :
    ask (.pktErrs .tok) (holding none' (pkt [0x69#8, 0x04#8, 0xF9#8] 0#64 .high) none' none') = data 2#64 := by decide
theorem test_pktValid : ask (.pktValid .spl) good = data 1#64 ∧ ask (.pktValid .dat) good = data 1#64 ∧
    ask (.pktValid .hsk) short = data 1#64 ∧ ask (.pktValid .dat) short = data 0#64 := by decide

/-! ### CRC commands (spec/95_test_vectors.md 2.2) -/

theorem test_crc5 : ask (.crc5 .tok 1#11 11#11) good = data 0x1F#64 ∧ ask (.crc5 .tok 1#11 16#11) good = data 0x19#64 := by
  decide
theorem test_crc5_range : ask (.crc5 .tok 3#11 0#11) good = data 0#64 ∧ ask (.crc5 .tok 4#11 0#11) good = unk ∧
    ask (.crc5 .tok 1#11 17#11) good = unk := by decide
theorem test_crc16 : ask (.crc16 .dat 1#11 6#11) good = data 0x4FFE#64 ∧ ask (.crc16 .dat 5#11 2#11) good = data 0x9C33#64 := by
  decide
theorem test_crc16_range : ask (.crc16 .dat 7#11 0#11) good = data 0#64 ∧ ask (.crc16 .dat 1#11 7#11) good = unk ∧
    ask (.crc16 .dat 8#11 0#11) good = unk := by decide

/-! ### Element commands (spec/95_test_vectors.md 2.3) -/

/-- `TOK = 2D 15 EF`, `DAT = C3 80 06 00 01 00 00 40 00 DD 95` (bad CRC-16), a Transaction with `estruct = 2`. -/
def badData : State :=
  { holding none' (pkt [0x2D#8, 0x15#8, 0xEF#8] 1600#64 .lowPrefixed)
      (pkt [0xC3#8, 0x80#8, 0x06#8, 0x00#8, 0x01#8, 0x00#8, 0x00#8, 0x40#8, 0x00#8, 0xDD#8, 0x95#8] 2400#64 .low) none' with
    etype := .transaction, estruct := 2#3, phase := .run }

theorem test_elmSet : (after (.elmSet 3#4 4#3 82400#64) good).etype = .splitTransaction ∧
    (after (.elmSet 3#4 4#3 82400#64) good).estruct = 4#3 ∧ (after (.elmSet 3#4 4#3 82400#64) good).etime = 82400#64 := by
  decide
theorem test_elmSet_reserved : ask (.elmSet 11#4 0#3 0#64) good = err 2#3 := by decide
theorem test_elmType : ask .elmType badData = data 2#64 ∧ ask .elmType State.reset = data 0#64 := by decide
theorem test_elmTime : ask .elmTime { good with etime := 600#64 } = data 600#64 := by decide
theorem test_elmEmpty : ask .elmEmpty badData = data 0#64 ∧ ask .elmEmpty State.reset = data 1#64 ∧
    ask .elmEmpty { good with etype := .reset } = unk := by decide
theorem test_elmAddr : ask .elmAddr { good with etype := .transaction } = data 5#64 ∧
    ask .elmAddr { good with etype := .startOfFrame } = unk := by decide
theorem test_elmEndp : ask .elmEndp { good with etype := .lpmTransaction } = data 2#64 ∧ ask .elmEndp good = unk := by decide
/-- Slot 1 empty: the speed is that of the data packet, which is full speed. -/
theorem test_elmSpeed :
    ask .elmSpeed { holding none' none' (pkt [0xC3#8, 0#8, 0#8] 0#64 .full) (pkt [0xD2#8] 0#64 .low) with
      etype := .transaction } = data 2#64 := by decide
theorem test_elmErrs : ask .elmErrs badData = data 0x282#64 ∧
    ask .elmErrs { short with etype := .splitTransaction, estruct := 1#3 } = data 0x1BC#64 := by decide
theorem test_elmValid : ask .elmValid badData = data 0#64 ∧ ask .elmValid { good with etype := .transaction } = data 1#64 := by
  decide

/-! ### Accumulator (spec/95_test_vectors.md 2.5) -/

/-- Vector A1: an acknowledged IN transaction, token at 600, handshake at 630, high speed. -/
def a1 : State :=
  { holding none' (pkt [0x69#8, 0x05#8, 0xF9#8] 600#64 .high) none' (pkt [0xD2#8] 630#64 .high) with
    etype := .transaction, etime := 600#64, phase := .run }

theorem test_elmPush_cells : (after .elmPush a1).histIn =
    [(600, 10#8), (601, 10#8), (602, 10#8), (603, 10#8), (630, 10#8), (631, 10#8)] ∧ (after .elmPush a1).histOut = [] := by
  decide
theorem test_elmPush_registers : (after .elmPush a1).cnt.toList = [1#32, 0#32, 0#32, 1#32, 0#32, 0#32, 0#32, 0#32] ∧
    (after .elmPush a1).devcntAt 5#7 = 1#32 ∧ (after .elmPush a1).lastDev = 5#7 ∧
    ask .elmPush a1 = some ⟨0#64, false, 0#3, true⟩ ∧ ask .elmPush { a1 with phase := .idle } = err 4#3 := by decide

/-- Vector A5: saturation at the end of the frame, and no wrap. -/
theorem test_bucket_saturates_and_discards :
    ({ a1 with histIn := [(7498, 245#8), (7499, 250#8)] }.setSlot .tok (pkt [0x69#8, 0x05#8, 0xF9#8] 7498#64 .high)
      |>.bucket .inn .tok).histIn = [(7498, 255#8), (7499, 255#8)] := by decide

/-- Vectors A6 to A8: at the end of the frame, of unknown speed, before the origin: no cell. -/
theorem test_bucket_skips :
    bucketInto 0#64 (pkt [0x69#8, 0x05#8, 0xF9#8] 7500#64 .high) [] = [] ∧
    bucketInto 0#64 (pkt [0x69#8, 0x05#8, 0xF9#8] 10#64 .unknown) [] = [] ∧
    bucketInto 100#64 (pkt [0x69#8, 0x05#8, 0xF9#8] 99#64 .high) [] = [] ∧
    bucketInto 0#64 (pkt [0xD2#8] 59999#64 .low) [] = [(7499, 10#8)] := by decide

/-- Vector A4: a SETUP token at full speed: its category is OUT, the SETUP and ACK tests hold as well. -/
theorem test_count : (({ a1 with phase := .run }.setSlot .tok (pkt [0x2D#8, 0x00#8, 0x10#8] 0#64 .full)).count .out).cnt.toList =
    [0#32, 1#32, 0#32, 1#32, 1#32, 0#32, 0#32, 0#32] := by decide

/-- Vector A9: the NAK handshake decides before the IN token. -/
theorem test_classify : (a1.setSlot .hsk (pkt [0x5A#8] 0#64 .high)).classify = .nak ∧ a1.classify = .inn ∧
    (a1.setSlot .tok none').classify = .out := by decide

/-- Program P3: a split transaction tracks the hub, not the device behind it. -/
theorem test_split_tracks_hub : (after .elmPush { good with etype := .splitTransaction, phase := .run }).lastDev = 0x12#7 := by
  decide

/-- Vectors A14 and A15: a StartOfFrame with an empty slot 0 and with a high-speed packet. -/
theorem test_start_of_frame :
    (after .elmPush { State.reset with phase := .run, etype := .startOfFrame, etime := 77#64 }).origin = 77#64 ∧
    (after .elmPush { State.reset with phase := .run, etype := .startOfFrame, etime := 77#64 }).hs = false ∧
    (after .elmPush { mixed with phase := .run, etype := .startOfFrame }).hs = true := by decide

/-- The table of `d(c)`, and a cell that leaves the list. -/
theorem test_decay : (after .decay { State.reset with histIn := [(5, 255#8), (6, 3#8), (7, 26#8)] }).histIn =
    [(5, 242#8), (7, 22#8)] := by decide
theorem test_clear : (after .clear { a1 with origin := 9#64, histNak := [(1, 1#8)] }).histNak = [] ∧
    (after .clear { a1 with origin := 9#64 }).origin = 0#64 ∧ (after .clear a1).phase = .run := by decide

/-! ### State transfer (spec/95_test_vectors.md 2.6) -/

theorem test_histRd : ask (.histRd 1#2 7499#16) { State.reset with histOut := [(7499, 255#8)] } = data 255#64 ∧
    ask (.histRd 0#2 7500#16) State.reset = err 3#3 ∧ ask (.histRd 3#2 9000#16) State.reset = err 2#3 := by decide
theorem test_histWr : (after (.histWr 1#2 7499#16 0xFF#8) State.reset).histOut = [(7499, 255#8)] ∧
    (after (.histWr 0#2 3#16 0#8) { State.reset with histIn := [(3, 1#8), (4, 2#8)] }).histIn = [(4, 2#8)] ∧
    ask (.histWr 0#2 7500#16 1#8) State.reset = err 3#3 := by decide
theorem test_histClr : (after .histClr { a1 with histNak := [(1000, 255#8)], origin := 1000#64 }).histNak = [] ∧
    (after .histClr { a1 with origin := 1000#64 }).origin = 1000#64 := by decide
theorem test_cntRd : ask (.cntRd 5#3) (State.reset.setCnt 5#3 0xFFFFFFFF#32) = data 0xFFFFFFFF#64 := by decide
theorem test_cntWr : (after (.cntWr 3#3 0xFFFFFFFF#32) State.reset).cnt.toList =
    [0#32, 0#32, 0#32, 0xFFFFFFFF#32, 0#32, 0#32, 0#32, 0#32] := by decide
/-- Program P3: the ACK counter wraps. -/
theorem test_counter_wraps : ((State.reset.setCnt 3#3 0xFFFFFFFF#32).incCnt 3#3).cntAt 3#3 = 0#32 := by decide
theorem test_devRd : ask (.devRd 0#7) (State.reset.setDev 0#7 true 0xFFFFFFFF#32) = data 0x1FFFFFFFF#64 := by decide
theorem test_devWr : (after (.devWr 0x12#7 true 7#32) State.reset).devcntAt 0x12#7 = 7#32 ∧
    (after (.devWr 0x12#7 true 7#32) State.reset).devseenAt 0x12#7 = true ∧
    (after (.devWr 0x12#7 true 7#32) State.reset).lastDev = 0#7 := by decide
theorem test_devLast : ask .devLast { State.reset with lastDev := 0x3A#7 } = data 0x3A#64 := by decide
theorem test_statRd : ask .statRd State.reset = data 0#64 ∧ ask .statRd { State.reset with phase := .run, hs := true } = data 5#64 ∧
    ask .statRd { State.reset with phase := .done } = data 2#64 := by decide
theorem test_orgRd : ask .orgRd { State.reset with origin := 75000#64 } = data 0x124F8#64 := by decide

/-! ### Whole steps (spec/95_test_vectors.md 2.7) -/

theorem test_step_errors : askWord 0xFFFFFFFF#32 0#64 State.reset = err 1#3 ∧ askWord 0x62000001#32 0#64 State.reset = err 2#3 ∧
    askWord 0x62000000#32 0#64 State.reset = err 4#3 ∧ askWord 0x70001D4C#32 0#64 State.reset = err 3#3 := by decide

/-! ### Witnesses: for each statement with hypotheses, a case that meets them -/

/-- A state on which one command waits. -/
def waiting (cw : Word) (wdata : Data) : State := { State.reset with inputs := [.command ⟨cw, wdata⟩] }

/-- A state in `RUN` with the element type given. -/
def running (t : EType) : State := { State.reset with phase := .run, etype := t }

theorem canonical_reset : Canonical State.reset := by
  intro h
  cases h <;> decide
theorem canonical_running (t : EType) : Canonical (running t) := by
  intro h
  cases h <;> exact Memory.wf_nil

/-- Every `Coded` clause: for each opcode and format of the statements a word with all must-be-zero bits 0, and, but for
format R, one with such a bit set. -/
theorem witness_Coded :
    ([0x00, 0x51, 0x52, 0x53, 0x54, 0x55, 0x56, 0x57, 0x58, 0x60, 0x61, 0x62, 0x63, 0x64, 0x72, 0x77, 0x78, 0x79].all fun op =>
      fld (BitVec.ofNat 32 (op * 2 ^ 24)) 31 24 == op && fmtN (BitVec.ofNat 32 (op * 2 ^ 24)) &&
        fld (BitVec.ofNat 32 (op * 2 ^ 24 + 1)) 31 24 == op && !fmtN (BitVec.ofNat 32 (op * 2 ^ 24 + 1))) = true ∧
    ([0x10, 0x14, 0x15, 0x16, 0x20, 0x21, 0x22, 0x23, 0x24, 0x25, 0x26, 0x27, 0x28, 0x29, 0x2A, 0x2B, 0x2C, 0x2D, 0x2E, 0x2F,
        0x30, 0x31, 0x32].all fun op =>
      fld (BitVec.ofNat 32 (op * 2 ^ 24)) 31 24 == op && fmtS (BitVec.ofNat 32 (op * 2 ^ 24 + 3 * 2 ^ 22)) &&
        !fmtS (BitVec.ofNat 32 (op * 2 ^ 24 + 2 ^ 21))) = true ∧
    fmtP 0x11FC0000#32 = true ∧ fmtP 0x11020000#32 = false ∧ fmtA 0x12C000FF#32 = true ∧ fmtA 0x12000100#32 = false ∧
    fmtO 0x13FFF800#32 = true ∧ fmtO 0x13000400#32 = false ∧ fmtR 0x40FFFFFF#32 = true ∧ fmtE 0x50FE0000#32 = true ∧
    fmtE 0x50010000#32 = false ∧ fmtH 0x70C0FFFF#32 = true ∧ fmtH 0x70010000#32 = false ∧ fmtK 0x73000007#32 = true ∧
    fmtK 0x73000008#32 = false ∧ fmtD 0x7500007F#32 = true ∧ fmtD 0x75000080#32 = false := by decide

theorem witness_DecodeOfEncodeIsTheCommand : (Instr.pktSet .hsk 4#3 true 600#64).wellFormed = true ∧
    (Instr.elmSet 10#4 7#3 1#64).wellFormed = true ∧ (Instr.histWr 2#2 65535#16 0xFF#8).wellFormed = true := by decide
theorem witness_EncodeOfDecodeIsTheWord : decode ⟨0x71401D4B#32, 0x1FF#64⟩ = .ok (.histWr 1#2 7499#16 0xFF#8) := by decide
theorem witness_UnreadWriteDataHasNoEffect :
    0x1FF#64 &&& wdataRead (fld 0x71401D4B#32 31 24) = 0xFF#64 &&& wdataRead (fld 0x71401D4B#32 31 24) ∧
    0x3FFFFFFFF#64 &&& wdataRead (fld 0x76000000#32 31 24) = 0x1FFFFFFFF#64 &&& wdataRead (fld 0x76000000#32 31 24) ∧
    5#64 &&& wdataRead (fld 0x60000000#32 31 24) = 0#64 &&& wdataRead (fld 0x60000000#32 31 24) := by decide
theorem witness_UnassignedOpcodesAnswerIllegalOp :
    (waiting 0xFF000000#32 0#64).inputs = .command ⟨0xFF000000#32, 0#64⟩ :: [] ∧ assigned 0xFF000000#32 = false ∧
    assigned 0x01000000#32 = false ∧ assigned 0x7A000000#32 = false ∧ fld 0xFF000000#32 31 24 = 0xFF := by decide
theorem witness_ReservedFieldsAnswerReserved :
    (waiting 0x11680000#32 0#64).inputs = .command ⟨0x11680000#32, 0#64⟩ :: [] ∧ assigned 0x11680000#32 = true ∧
    (mbzSet 0x11680000#32 || reservedEnum 0x11680000#32) = true ∧ assigned 0x11600000#32 = true ∧
    (mbzSet 0x11600000#32 || reservedEnum 0x11600000#32) = false ∧ reservedEnum 0x50B00000#32 = true ∧
    reservedEnum 0x50A00000#32 = false ∧ reservedEnum 0x70C00000#32 = true ∧ reservedEnum 0x70800000#32 = false ∧
    mbzSet 0x00000001#32 = true ∧ mbzSet 0x40FFFFFF#32 = false := by decide
theorem witness_StepRunsTheDecodedCommand :
    (waiting 0x60000000#32 9#64).inputs = .command ⟨0x60000000#32, 9#64⟩ :: [] ∧
    decode ⟨0x60000000#32, 9#64⟩ = .ok .init := by decide
theorem witness_EveryStepIsDefinedAndAnswersOnce :
    (waiting 0xFFFFFFFF#32 0#64).inputs = .command ⟨0xFFFFFFFF#32, 0#64⟩ :: [] := by decide
theorem witness_RefusedCommandsChangeNothing : ∃ t r,
    (waiting 0x62000000#32 0#64).inputs = .command ⟨0x62000000#32, 0#64⟩ :: [] ∧
    step (waiting 0x62000000#32 0#64) = .next t ∧ t.responses = (waiting 0x62000000#32 0#64).responses ++ [r] ∧ r.cerr ≠ 0#3 :=
  ⟨{ State.reset with responses := [⟨0#64, false, 4#3, false⟩] }, ⟨0#64, false, 4#3, false⟩, rfl, rfl, rfl, by decide⟩
/-- One word for each of the codes 1, 2, 3, 3, 4, 4, 0. -/
theorem witness_ErrorCodeIsTheFirstCause :
    (waiting 0x60000000#32 0#64).inputs = .command ⟨0x60000000#32, 0#64⟩ :: [] ∧ errorOf State.reset 0x01000000#32 = 1 ∧
    errorOf State.reset 0x70C02328#32 = 2 ∧ errorOf State.reset 0x70001D4C#32 = 3 ∧ errorOf State.reset 0x70001D4B#32 = 0 ∧
    errorOf (running .reset) 0x60000000#32 = 4 ∧ errorOf State.reset 0x61000000#32 = 4 ∧
    errorOf State.reset 0x12000000#32 = 0 := by decide
theorem witness_ErrorCodeIsTheFirstCause_full_slot :
    errorOf (holding (pkt (List.replicate 2047 0#8) 0#64 .high) none' none' none') 0x12000000#32 = 3 := by
  have h : assigned 0x12000000#32 = true ∧ (mbzSet 0x12000000#32 || reservedEnum 0x12000000#32) = false ∧
      fld 0x12000000#32 31 24 = 0x12 ∧ slotOf 0x12000000#32 = .spl := by decide
  simp [errorOf, h.1, h.2.1, h.2.2.1, h.2.2.2, holding, State.slot, pkt]
theorem witness_ResetAndZeroingEvents :
    { State.reset with inputs := [.reset] }.inputs = .reset :: [] ∧ State.reset.phase ≠ .run ∧
    { State.reset with phase := .done }.phase ≠ .run ∧ (running .reset).phase = .run ∧ (running .reset).etype = .reset := by
  decide
theorem witness_StepKeepsStorageOk : State.reset.StorageOk ∧ State.reset.StepsTo State.reset :=
  ⟨⟨fun k => by cases k <;> decide, canonical_reset, fun h => by cases h <;> simp [State.reset, State.hist]⟩, rfl⟩
theorem witness_StepKeepsOutputsOk : State.reset.OutputsOk ∧ State.reset.StepsTo State.reset :=
  ⟨⟨fun r hr => by simp [State.reset] at hr, rfl⟩, rfl⟩
theorem witness_LastDeviceStaysSeen : ∃ (s t : State), (∀ a seen count, Instr.nop ≠ .devWr a seen count) ∧
    (s.lastDev ≠ 0#7 → s.devseenAt s.lastDev = true) ∧ exec .nop s = .next t ∧ t.lastDev ≠ 0#7 :=
  ⟨{ State.reset.setDev 5#7 true 1#32 with lastDev := 5#7 }, _, fun _ _ _ h => (nomatch h), by decide, rfl, by decide⟩
theorem witness_ReadsHaveNoSideEffect : isRead (.histRd 0#2 7499#16) = true ∧ isIdempotentWrite (.histWr 0#2 7499#16 1#8) = true ∧
    ∃ t, exec (.histWr 0#2 7499#16 1#8) State.reset = .next t :=
  ⟨rfl, rfl, _, rfl⟩
theorem witness_SlotsAndHeaderSurvive : (∃ t, exec .decay State.reset = .next t) ∧ (∀ k, Instr.decay ≠ .pktClr k) ∧
    (∀ k v x w, Instr.decay ≠ .pktSet k v x w) ∧ (∀ k b, Instr.decay ≠ .pktApp k b) ∧
    (∀ e x w, Instr.decay ≠ .elmSet e x w) :=
  ⟨⟨_, rfl⟩, fun _ h => (nomatch h), fun _ _ _ _ h => (nomatch h), fun _ _ h => (nomatch h), fun _ _ _ h => (nomatch h)⟩
theorem witness_SlotsAndHeaderSurvive_accumulator : (∃ t, exec .final (running .trigger) = .next t) ∧ Instr.final ≠ .init ∧
    Instr.final ≠ .elmPush ∧ Instr.final ≠ .decay ∧ Instr.final ≠ .clear ∧ (∀ h j v, Instr.final ≠ .histWr h j v) ∧
    Instr.final ≠ .histClr ∧ (∀ c v, Instr.final ≠ .cntWr c v) ∧ (∀ a b c, Instr.final ≠ .devWr a b c) :=
  ⟨⟨_, rfl⟩, by decide, by decide, by decide, by decide, fun _ _ _ h => (nomatch h), by decide, fun _ _ h => (nomatch h),
    fun _ _ _ h => (nomatch h)⟩
theorem witness_PhaseMachine : State.reset.phase ≠ .run ∧ { State.reset with phase := .done }.phase ≠ .run ∧
    (running .trigger).phase = .run ∧ Instr.decay ≠ .init ∧ Instr.decay ≠ .final ∧ Instr.decay ≠ .elmPush ∧
    { State.reset with inputs := [.reset] }.inputs = .reset :: [] := by decide
theorem witness_AccumulatorWriters : (∃ t, exec .elmPush (running .transaction) = .next t) ∧ Instr.elmPush ≠ .init ∧
    Instr.elmPush ≠ .clear ∧ (running .transaction).etype ≠ .reset ∧ Canonical (running .transaction) :=
  ⟨⟨_, rfl⟩, by decide, by decide, by decide, canonical_running _⟩
/-- A push that changes a counter and a device entry, and a write that changes a cell: the clauses' premises. -/
theorem witness_AccumulatorWriters_changes : (after .elmPush a1).cntAt 0#3 ≠ a1.cntAt 0#3 ∧
    (after .elmPush a1).devcntAt 5#7 ≠ a1.devcntAt 5#7 ∧
    cell (after (.histWr 0#2 7499#16 1#8) State.reset) .inn 7499 ≠ cell State.reset .inn 7499 := by decide
theorem witness_SpeedContextIsReadByStatOnly : (running .startOfFrame).phase = .run ∧
    (∃ t, exec .elmPush (running .startOfFrame) = .next t) ∧ (running .keepAlive).etype = .keepAlive ∧
    State.reset.phase ≠ .run ∧ (∃ t, exec .init State.reset = .next t) ∧ (∃ t, exec .clear State.reset = .next t) ∧
    (∃ t, step { State.reset with inputs := [.reset] } = .next t) ∧ Instr.orgRd ≠ .statRd ∧
    (∃ t, exec .orgRd State.reset = .next t) :=
  ⟨rfl, ⟨_, rfl⟩, rfl, by decide, ⟨_, rfl⟩, ⟨_, rfl⟩, ⟨_, rfl⟩, by decide, ⟨_, rfl⟩⟩
theorem witness_OnlyAcceptedPushesForward : (Instr.elmPush = .elmPush ∧ (running .trigger).phase = .run) ∧
    ¬ (Instr.elmPush = .elmPush ∧ State.reset.phase = .run) ∧ ¬ (Instr.nop = .elmPush ∧ (running .trigger).phase = .run) := by
  decide
theorem witness_PacketClearAndSet : 5 ≤ (5#3).toNat ∧ 5 ≤ (7#3).toNat ∧ speedCode .lowPrefixed = 4 := by decide
theorem witness_PacketAppend :
    ((holding none' (pkt (List.replicate 2046 0#8) 0#64 .high) none' none').slot .tok).buf.length ≠ 2047 ∧
    ((holding none' (pkt (List.replicate 2047 0#8) 0#64 .high) none' none').slot .tok).buf.length = 2047 := by
  simp [holding, State.slot, pkt]
theorem witness_PacketReadback :
    ((holding none' (pkt (List.replicate 2047 0#8) 0#64 .high) none' none').slot .tok).buf.length ≤ 2047 := by
  simp [holding, State.slot, pkt]
/-- A token of 2 bytes, a split of 3, a data packet of 2, an invalid packet; at 3, 4 and 3 bytes the premise fails. -/
theorem witness_ShortPacketsAnswerUnknown :
    (short.slot .tok).buf.length < minLength (short.slot .tok) ∧ (short.slot .spl).buf.length < minLength (short.slot .spl) ∧
    (short.slot .dat).buf.length < minLength (short.slot .dat) ∧ isInvalid (mixed.slot .dat) = true ∧
    ¬ (good.slot .tok).buf.length < minLength (good.slot .tok) ∧
    ¬ (good.slot .spl).buf.length < minLength (good.slot .spl) := by decide
theorem witness_PacketErrorsExcludeEachOther :
    (pkt [0x69#8, 0x04#8, 0xF9#8] 0#64 .high).errs.getLsbD 1 = true ∧
    (pkt [0x69#8, 0x05#8] 0#64 .high).errs.getLsbD 3 = true ∧ (pkt [0xA5#8, 0x00#8] 0#64 .high).errs.getLsbD 4 = true ∧
    (pkt [0x78#8, 0x92#8, 0x83#8] 0#64 .high).errs.getLsbD 5 = true ∧ isInvalid (pkt [0x00#8] 0#64 .high) = true ∧
    (pkt [0x00#8] 0#64 .high true).ext = true := by decide
theorem witness_ValidatorComparesStoredAndComputed :
    is11 (good.slot .tok) = true ∧ (good.slot .tok).buf.length = 3 ∧ is11 (mixed.slot .tok) = true ∧
    (mixed.slot .tok).buf.length = 3 ∧ isSplit (good.slot .spl) = true ∧ (good.slot .spl).buf.length = 4 ∧
    isData (good.slot .dat) = true ∧ 3 ≤ (good.slot .dat).buf.length ∧ isData (pkt [0xC3#8, 0#8, 0#8] 0#64 .high) = true := by
  decide
theorem witness_ElementSet : 11 ≤ (11#4).toNat ∧ 11 ≤ (15#4).toNat ∧ etypeCode .trigger = 10 := by decide
theorem witness_ElementErrorsAndValidity : ∀ k ∈ consOf (running .transaction).etype, ((running .transaction).slot k).buf = [] := by
  decide
theorem witness_LifecycleCommands : (running .trigger).phase = .run ∧ State.reset.phase ≠ .run ∧
    { State.reset with phase := .done }.phase ≠ .run := by decide
theorem witness_PushOfFrameMarkers : (running .startOfFrame).phase = .run ∧ (running .startOfFrame).etype = .startOfFrame ∧
    (running .keepAlive).phase = .run ∧ (running .keepAlive).etype = .keepAlive := by decide
theorem witness_PushOfResetAndOthers : State.reset.phase ≠ .run ∧ (running .reset).phase = .run ∧
    (running .reset).etype = .reset ∧ ∀ e ∈ [EType.invalidPacket, .lpmTransaction, .suspended, .powerChange, .highSpeedHandshake,
      .trigger], (running e).phase = .run ∧ (running e).etype = e := by decide
theorem witness_PushOfTransactions : (running .transaction).phase = .run ∧ Canonical (running .transaction) ∧
    (running .transaction).etype = .transaction ∧ Canonical (running .splitTransaction) ∧
    (running .splitTransaction).etype = .splitTransaction :=
  ⟨rfl, canonical_running _, rfl, canonical_running _, rfl⟩
theorem witness_RepeatedPushesSaturate : (running .transaction).phase = .run ∧ (running .transaction).etype = .transaction ∧
    Canonical (running .transaction) ∧ (running .splitTransaction).phase = .run ∧
    (running .splitTransaction).etype = .splitTransaction ∧ Canonical (running .splitTransaction) :=
  ⟨rfl, rfl, canonical_running _, rfl, rfl, canonical_running _⟩
theorem witness_DecayReducesEveryCell : Canonical State.reset := canonical_reset
theorem witness_FortyDecaysReachZero : (3#8 : Byte).toNat ≤ (4#8 : Byte).toNat ∧
    Canonical { State.reset with histIn := [(7499, 255#8)] } ∧ cell { State.reset with histIn := [(7499, 255#8)] } .inn 7499 = 255 :=
  ⟨by decide, fun h => by cases h <;> decide, by decide⟩
theorem witness_HistogramReadWriteClear : selects 0#2 = some .inn ∧ selects 2#2 = some .nak ∧ selects 3#2 = none ∧
    7500 ≤ (7500#16).toNat ∧ (7499#16).toNat < 7500 ∧ Canonical State.reset :=
  ⟨by decide, by decide, by decide, by decide, by decide, canonical_reset⟩
theorem witness_WriteThenReadRoundTrip : Canonical State.reset ∧
    (∀ i ∈ [Instr.decay, .devWr 0#7 true 1#32, .cntWr 7#3 1#32], ¬ RewritesDevice 127#7 i) ∧
    (∀ i ∈ [Instr.decay, .cntWr 0#3 1#32, .devWr 7#7 true 1#32], ¬ RewritesCounter 7#3 i) ∧
    (2#2 ≠ 3#2 ∧ (7499#16).toNat < 7500 ∧
      ∀ i ∈ [Instr.histWr 2#2 7498#16 1#8, .histWr 1#2 7499#16 1#8, .final], ¬ RewritesCell 2#2 7499#16 i) ∧
    (0#7 ≠ 127#7 ∧ 0#3 ≠ 7#3 ∧ (0#16).toNat < 7500 ∧ (2#2 ≠ 1#2 ∨ 0#16 ≠ 7499#16)) := by
  refine ⟨canonical_reset, ?_, ?_, ⟨by decide, by decide, ?_⟩, by decide⟩ <;>
    simp [RewritesDevice, RewritesCounter, RewritesCell]
theorem witness_PacketLoadBuildsThePacket : (4#3).toNat = speedCode .lowPrefixed ∧
    (List.replicate 2047 (0#8 : Byte)).length ≤ 2047 := by simp [speedCode]
theorem witness_BulkWriteThenBulkRead : Canonical State.reset ∧ 2#2 ≠ 3#2 ∧ (List.replicate 7500 (1#8 : Byte)).length = 7500 ∧
    (List.replicate 8 (1#32 : Word)).length = 8 ∧ (List.replicate 128 (true, (1#32 : Word))).length = 128 := by
  refine ⟨canonical_reset, by decide, ?_, ?_, ?_⟩ <;> exact List.length_replicate

end Sys2Proof.Tests
end

section
/-! PROOFS. What a step answers (spec/00_scope.md R9, R13): every command gives exactly one answer of one of five shapes,
and its forward event exactly when the answer announces one. -/

namespace Sys2Proof.Machine

open Sys2Proof.Stmt

/-! ### What a step is, by the event at the head of the port -/

theorem step_of_no_event {s : State} (h : s.inputs = []) : step s = .next s := by
  simp [step, h, idle]

theorem step_of_reset {s : State} {rest : List HostEvent} (h : s.inputs = .reset :: rest) :
    step s = .next (hardReset rest) := by
  simp [step, h]

theorem step_of_decode_error {s : State} {c : Command} {rest : List HostEvent} {e : CmdError}
    (h : s.inputs = .command c :: rest) (hc : decode c = .error e) : step s = .next ((s.take rest).cmdError e) := by
  simp only [step, h, hc]

theorem step_of_decode_ok {s : State} {c : Command} {rest : List HostEvent} {i : Instr}
    (h : s.inputs = .command c :: rest) (hc : decode c = .ok i) : step s = exec i (s.take rest) := by
  simp only [step, h, hc]

/-! ### An accepted push forwards the element as it stood before the push (R194, R200) -/

/-- `t` is `s` up to the accumulator's registers and cells. -/
structure SameOutsideAccumulator (s t : State) : Prop where
  slots     : t.slots = s.slots
  etype     : t.etype = s.etype
  etime     : t.etime = s.etime
  estruct   : t.estruct = s.estruct
  phase     : t.phase = s.phase
  inputs    : t.inputs = s.inputs
  responses : t.responses = s.responses
  trace     : t.trace = s.trace

theorem sameOutsideAccumulator_refl (s : State) : SameOutsideAccumulator s s := by constructor <;> rfl

theorem sameOutsideAccumulator_onSof (s : State) : SameOutsideAccumulator s s.onSof := by constructor <;> rfl

theorem sameOutsideAccumulator_onKeepAlive (s : State) : SameOutsideAccumulator s s.onKeepAlive := by
  constructor <;> rfl

theorem sameOutsideAccumulator_zeroAll (s : State) : SameOutsideAccumulator s s.zeroAll := by constructor <;> rfl

theorem sameOutsideAccumulator_onTransaction (s : State) : SameOutsideAccumulator s s.onTransaction := by
  constructor <;> simp [State.onTransaction]

theorem sameOutsideAccumulator_onSplit (s : State) : SameOutsideAccumulator s s.onSplit := by
  constructor <;> simp [State.onSplit]

/-- The handlers write the accumulator and nothing else (R201 to R206). -/
theorem sameOutsideAccumulator_onElement (s : State) : SameOutsideAccumulator s s.onElement := by
  unfold State.onElement
  cases s.etype with
  | startOfFrame => exact sameOutsideAccumulator_onSof s
  | keepAlive => exact sameOutsideAccumulator_onKeepAlive s
  | transaction => exact sameOutsideAccumulator_onTransaction s
  | splitTransaction => exact sameOutsideAccumulator_onSplit s
  | reset => exact sameOutsideAccumulator_zeroAll s
  | invalidPacket | lpmTransaction | suspended | powerChange | highSpeedHandshake | trigger =>
    exact sameOutsideAccumulator_refl s

theorem EType.cons_eq_consOf (e : EType) : e.cons = consOf e := by cases e <;> rfl

theorem State.forwardEvent_eq_event (s : State) : s.forwardEvent = event s := by
  simp only [State.forwardEvent, State.elmPackets, event, EType.cons_eq_consOf]

/-- The forward event reads the slots and the header only. -/
theorem event_congr {s t : State} (hslots : t.slots = s.slots) (htype : t.etype = s.etype) (htime : t.etime = s.etime)
    (hstruct : t.estruct = s.estruct) : event t = event s := by
  have hslot : t.slot = s.slot := funext (State.slot_congr hslots)
  simp only [event, hslot, htype, htime, hstruct]

/-- Forwarding after the element's handler is what R200 asks of every accepted push. -/
theorem forwarded_onElement (s : State) : Forwarded s s.onElement.forward := by
  obtain ⟨slots, etype, etime, estruct, phase, inputs, responses, trace⟩ := sameOutsideAccumulator_onElement s
  refine ⟨slots, etype, etime, estruct, phase, inputs, ?_, ?_⟩
  · simp [State.forward, responses]
  · simp [State.forward, trace, State.forwardEvent_eq_event, event_congr slots etype etime estruct]

/-! ### The five shapes of an answer (R8, R9, R251) -/

/-- `u` holds the same host events, answers and forward events as `s`. -/
structure SamePorts (s u : State) : Prop where
  inputs    : u.inputs = s.inputs
  responses : u.responses = s.responses
  trace     : u.trace = s.trace

/-- What a command may answer from `s`: a command error or read data on an unchanged state, an acknowledgement on a
state with the same ports, or the forward of an accepted push. -/
inductive Answered (s : State) : Host.Outcome State Fault Refusal → Prop
  | refused (e : CmdError) : Answered s (.next (s.cmdError e))
  | responded {w : Nat} (v : BitVec w) : Answered s (.next (s.respond v))
  | unknown : Answered s (.next s.respondUnknown)
  | acknowledged {u : State} (h : SamePorts s u) : Answered s (.next u.ack)
  | forwarded : Answered s (.next s.onElement.forward)

theorem Answered.respondOption {s : State} {w : Nat} (o : Option (BitVec w)) :
    Answered s (.next (s.respondOption o)) := by
  cases o with
  | none => exact .unknown
  | some v => exact .responded v

theorem samePorts_setSlot (s : State) (k : SlotId) (p : Packet) : SamePorts s (s.setSlot k p) :=
  ⟨State.setSlot_inputs s k p, State.setSlot_responses s k p, State.setSlot_trace s k p⟩

theorem samePorts_setHist (s : State) (h : HistSel) (m : Memory) : SamePorts s (s.setHist h m) :=
  ⟨State.setHist_inputs s h m, State.setHist_responses s h m, State.setHist_trace s h m⟩

theorem answered_pktSet (s : State) (k : SlotId) (speed : BitVec 3) (ext : Bool) (time : Time) :
    Answered s (execPktSet k speed ext time s) := by
  unfold execPktSet
  split
  · exact .refused .reserved
  · exact .acknowledged (samePorts_setSlot s k _)

theorem answered_pktApp (s : State) (k : SlotId) (byte : Byte) : Answered s (execPktApp k byte s) := by
  unfold execPktApp
  split
  · exact .refused .range
  · exact .acknowledged (samePorts_setSlot s k _)

theorem answered_crc5 (s : State) (k : SlotId) (off n : BitVec 11) : Answered s (execCrc5 k off n s) := by
  unfold execCrc5
  split
  · exact .responded _
  · exact .unknown

theorem answered_crc16 (s : State) (k : SlotId) (off n : BitVec 11) : Answered s (execCrc16 k off n s) := by
  unfold execCrc16
  split
  · exact .responded _
  · exact .unknown

theorem answered_elmSet (s : State) (etype : BitVec 4) (estruct : BitVec 3) (time : Time) :
    Answered s (execElmSet etype estruct time s) := by
  unfold execElmSet
  split
  · exact .refused .reserved
  · exact .acknowledged ⟨rfl, rfl, rfl⟩

theorem answered_init (s : State) : Answered s (execInit s) := by
  unfold execInit
  split
  · exact .refused .phase
  · exact .acknowledged ⟨rfl, rfl, rfl⟩

theorem answered_final (s : State) : Answered s (execFinal s) := by
  unfold execFinal
  split
  · exact .acknowledged ⟨rfl, rfl, rfl⟩
  · exact .refused .phase

theorem answered_elmPush (s : State) : Answered s (execElmPush s) := by
  unfold execElmPush
  split
  · exact .forwarded
  · exact .refused .phase

theorem answered_histRd (s : State) (h : BitVec 2) (idx : BitVec 16) : Answered s (execHistRd h idx s) := by
  unfold execHistRd
  split
  · exact .refused .reserved
  · split
    · exact .refused .range
    · exact .responded _

theorem answered_histWr (s : State) (h : BitVec 2) (idx : BitVec 16) (v : Byte) :
    Answered s (execHistWr h idx v s) := by
  unfold execHistWr
  split
  · exact .refused .reserved
  · split
    · exact .refused .range
    · exact .acknowledged (samePorts_setHist s _ _)

/-- Every command answers in one of the five shapes. -/
theorem exec_answered (i : Instr) (s : State) : Answered s (exec i s) := by
  cases i with
  | pktSet k speed ext time => exact answered_pktSet s k speed ext time
  | pktApp k byte => exact answered_pktApp s k byte
  | crc5 k off n => exact answered_crc5 s k off n
  | crc16 k off n => exact answered_crc16 s k off n
  | elmSet etype estruct time => exact answered_elmSet s etype estruct time
  | init => exact answered_init s
  | final => exact answered_final s
  | elmPush => exact answered_elmPush s
  | histRd h idx => exact answered_histRd s h idx
  | histWr h idx v => exact answered_histWr s h idx v
  | pktClr k => exact .acknowledged (samePorts_setSlot s k _)
  | nop | decay | clear | histClr | cntWr | devWr => exact .acknowledged ⟨rfl, rfl, rfl⟩
  | pktRb | pktPid | pktSubpid | pktAddr | pktEndp | pktFrame | pktHubaddr | pktHubport | pktSc | pktS | pktE | pktEt
  | pktCrc5 | pktCrc5c | pktCrc16 | pktCrc16c | elmEmpty | elmAddr | elmEndp => exact .respondOption _
  | pktLen | pktTime | pktAttr | pktEmpty | pktType | pktErrs | pktValid | elmType | elmTime | elmSpeed | elmErrs
  | elmValid | cntRd | devRd | devLast | statRd | orgRd => exact .responded _

/-- So does every command word, decoded or not. -/
theorem step_answered {s : State} {c : Command} {rest : List HostEvent} (h : s.inputs = .command c :: rest) :
    Answered (s.take rest) (step s) := by
  cases hc : decode c with
  | error e => rw [step_of_decode_error h hc]; exact .refused e
  | ok i => rw [step_of_decode_ok h hc]; exact exec_answered i _

/-! ### What the five shapes have in common -/

theorem Response.legal_value (v : Data) : Response.Legal ⟨v, false, 0#3, false⟩ := by constructor <;> simp

theorem Response.legal_unknown : Response.Legal ⟨0#64, true, 0#3, false⟩ := by constructor <;> simp

theorem Response.legal_error (e : CmdError) : Response.Legal ⟨0#64, false, e.code, false⟩ where
  unknownBare := nofun
  errorBare _ := ⟨rfl, rfl, rfl⟩
  codeSmall := by cases e <;> decide

theorem Response.legal_forward : Response.Legal ⟨0#64, false, 0#3, true⟩ := by constructor <;> simp

/-- One command answered by `r` turned the ports of `s` into those of `t`. -/
structure AnsweredBy (s : State) (r : Response) (t : State) : Prop where
  legal     : r.Legal
  inputs    : t.inputs = s.inputs
  responses : t.responses = s.responses ++ [r]
  trace     : t.trace = s.trace ++ if r.fwd then [event s] else []

/-- An answer that announces no forward, given on a state with the same ports. -/
theorem AnsweredBy.of_answer {s u : State} {r : Response} (h : SamePorts s u) (hr : r.Legal) (hfwd : r.fwd = false) :
    AnsweredBy s r (u.answer r) where
  legal := hr
  inputs := h.inputs
  responses := by simp [h.responses]
  trace := by simp [h.trace, hfwd]

theorem Answered.exists_answeredBy {s : State} {o : Host.Outcome State Fault Refusal} (h : Answered s o) :
    ∃ t r, o = .next t ∧ AnsweredBy s r t := by
  cases h with
  | refused e => exact ⟨_, _, rfl, .of_answer ⟨rfl, rfl, rfl⟩ (Response.legal_error e) rfl⟩
  | responded v => exact ⟨_, _, rfl, .of_answer ⟨rfl, rfl, rfl⟩ (Response.legal_value _) rfl⟩
  | unknown => exact ⟨_, _, rfl, .of_answer ⟨rfl, rfl, rfl⟩ Response.legal_unknown rfl⟩
  | acknowledged hu => exact ⟨_, _, rfl, .of_answer hu (Response.legal_value _) rfl⟩
  | forwarded =>
    have hf := forwarded_onElement s
    exact ⟨_, _, rfl, Response.legal_forward, hf.inputs, hf.responses, hf.trace⟩

/-- A command at the head of the port is taken and answered once. -/
theorem step_answeredBy {s : State} {c : Command} {rest : List HostEvent} (h : s.inputs = .command c :: rest) :
    ∃ t r, step s = .next t ∧ AnsweredBy (s.take rest) r t :=
  (step_answered h).exists_answeredBy

/-! ### The outputs stay legal -/

theorem State.OutputsOk.take {s : State} (h : s.OutputsOk) (rest : List HostEvent) : (s.take rest).OutputsOk :=
  ⟨h.legal, h.counted⟩

theorem outputsOk_hardReset (rest : List HostEvent) : (hardReset rest).OutputsOk :=
  ⟨fun _ hr => absurd hr List.not_mem_nil, rfl⟩

theorem AnsweredBy.outputsOk {s t : State} {r : Response} (h : AnsweredBy s r t) (hs : s.OutputsOk) : t.OutputsOk where
  legal q hq := by
    rw [h.responses, List.mem_append, List.mem_singleton] at hq
    rcases hq with hq | rfl
    · exact hs.legal q hq
    · exact h.legal
  counted := by
    rw [h.responses, h.trace, List.length_append, List.countP_append, hs.counted]
    cases hfwd : r.fwd <;> simp [hfwd]

end Sys2Proof.Machine

namespace Sys2Proof.Proofs

open Sys2Proof.Machine Sys2Proof.Stmt

/-- Settles O13, by the event the step takes: none, hardware reset, or a command, which is answered by one legal response
and emits one event exactly when that response announces it. -/
theorem stepKeepsOutputsOk : Obligations.StepKeepsOutputsOk := by
  intro s t hs hstep
  unfold State.StepsTo at hstep
  match hin : s.inputs with
  | [] =>
    rw [step_of_no_event hin] at hstep
    cases hstep
    exact hs
  | .reset :: rest =>
    rw [step_of_reset hin] at hstep
    cases hstep
    exact outputsOk_hardReset rest
  | .command c :: rest =>
    obtain ⟨u, r, hu, hr⟩ := step_answeredBy hin
    rw [hu] at hstep
    cases hstep
    exact hr.outputsOk (hs.take rest)

/-- Settles O8: the answer and the event are those of `AnsweredBy`, on the state with the command taken. -/
theorem everyStepIsDefinedAndAnswersOnce : Obligations.EveryStepIsDefinedAndAnswersOnce := by
  refine ⟨fun s => ?_, fun s c rest hin => ?_⟩
  · match hin : s.inputs with
    | [] => exact ⟨s, step_of_no_event hin⟩
    | .reset :: rest => exact ⟨hardReset rest, step_of_reset hin⟩
    | .command c :: rest =>
      obtain ⟨t, -, ht, -⟩ := step_answeredBy hin
      exact ⟨t, ht⟩
  · obtain ⟨t, r, ht, hr⟩ := step_answeredBy hin
    have hevent : event (s.take rest) = event s := event_congr rfl rfl rfl rfl
    exact ⟨t, r, ht, hr.inputs, hr.responses, hevent ▸ hr.trace⟩

/-- Settles O7: a word that decodes is executed on the state with the command taken. -/
theorem stepRunsTheDecodedCommand : Obligations.StepRunsTheDecodedCommand := by
  intro s c rest i hin hdecode
  exact step_of_decode_ok hin hdecode

end Sys2Proof.Proofs
end

section
/-! PROOFS. What a command changes before it answers: one inversion lemma over all commands, and from it the storage
invariant, the writers of the accumulator and the last device's seen flag (spec/10_state.md R34, R46, R47, R271). -/

namespace Sys2Proof.Machine

open Sys2Proof.Stmt

/-! ### What a command changes -/

/-- The states command `i` may have made of `s` when it answers. A read and a refused command change nothing. -/
inductive Effect (s : State) : Instr → State → Prop
  | unchanged (i : Instr) : Effect s i s
  | pktClr (k : SlotId) : Effect s (.pktClr k) (s.setSlot k Packet.cleared)
  | pktSet (k : SlotId) (speed : BitVec 3) (ext : Bool) (time : Time) (v : Speed) (hv : Speed.ofCode? speed = some v) :
      Effect s (.pktSet k speed ext time) (s.setSlot k ⟨[], time, v, ext⟩)
  | pktApp (k : SlotId) (byte : Byte) (hlen : (s.slot k).len ≠ Config.pktMax) :
      Effect s (.pktApp k byte) (s.setSlot k { s.slot k with buf := (s.slot k).buf ++ [byte] })
  | elmSet (etype : BitVec 4) (estruct : BitVec 3) (time : Time) (e : EType) (he : EType.ofCode? etype = some e) :
      Effect s (.elmSet etype estruct time) { s with etype := e, estruct := estruct, etime := time }
  | init (hphase : s.phase ≠ .run) : Effect s .init { s.zeroAll with phase := .run }
  | final (hphase : s.phase = .run) : Effect s .final { s with phase := .done }
  | elmPush (hphase : s.phase = .run) :
      Effect s .elmPush { s.onElement with trace := s.onElement.trace ++ [s.onElement.forwardEvent] }
  | decay : Effect s .decay (s.mapHists (Memory.mapCells decayCell))
  | clear : Effect s .clear s.zeroAll
  | histWr (h : BitVec 2) (idx : BitVec 16) (v : Byte) (sel : HistSel) (hsel : HistSel.ofCode? h = some sel)
      (hidx : idx.toNat < Config.histLen) : Effect s (.histWr h idx v) (s.setHist sel ((s.hist sel).write idx.toNat v))
  | histClr : Effect s .histClr (s.mapHists fun _ => [])
  | cntWr (c : BitVec 3) (v : Word) : Effect s (.cntWr c v) (s.setCnt c v)
  | devWr (a : BitVec 7) (seen : Bool) (count : Word) : Effect s (.devWr a seen count) (s.setDev a seen count)

/-- Command `i`, run on `s`, made `o`: it changed the state as `Effect` says and gave one answer. -/
def Changes (s : State) (i : Instr) (o : Host.Outcome State Fault Refusal) : Prop :=
  ∃ u r, Effect s i u ∧ o = .next (u.answer r)

theorem Changes.of_effect {s u : State} {i : Instr} (h : Effect s i u) (r : Response) :
    Changes s i (.next (u.answer r)) := ⟨u, r, h, rfl⟩

theorem changes_respondOption {s : State} {i : Instr} {w : Nat} (v : Option (BitVec w)) :
    Changes s i (.next (s.respondOption v)) := ⟨s, _, .unchanged i, by rw [State.respondOption_eq]⟩

theorem changes_pktSet (s : State) (k : SlotId) (speed : BitVec 3) (ext : Bool) (time : Time) :
    Changes s (.pktSet k speed ext time) (execPktSet k speed ext time s) := by
  unfold execPktSet
  split
  case h_1 => exact .of_effect (.unchanged _) _
  case h_2 v hv => exact .of_effect (.pktSet k speed ext time v hv) _

theorem changes_pktApp (s : State) (k : SlotId) (byte : Byte) : Changes s (.pktApp k byte) (execPktApp k byte s) := by
  unfold execPktApp
  split
  case isTrue => exact .of_effect (.unchanged _) _
  case isFalse hlen => exact .of_effect (.pktApp k byte hlen) _

theorem changes_crc5 (s : State) (k : SlotId) (off n : BitVec 11) : Changes s (.crc5 k off n) (execCrc5 k off n s) := by
  unfold execCrc5
  split <;> exact .of_effect (.unchanged _) _

theorem changes_crc16 (s : State) (k : SlotId) (off n : BitVec 11) :
    Changes s (.crc16 k off n) (execCrc16 k off n s) := by
  unfold execCrc16
  split <;> exact .of_effect (.unchanged _) _

theorem changes_elmSet (s : State) (etype : BitVec 4) (estruct : BitVec 3) (time : Time) :
    Changes s (.elmSet etype estruct time) (execElmSet etype estruct time s) := by
  unfold execElmSet
  split
  case h_1 => exact .of_effect (.unchanged _) _
  case h_2 e he => exact .of_effect (.elmSet etype estruct time e he) _

theorem changes_init (s : State) : Changes s .init (execInit s) := by
  unfold execInit
  split
  case isTrue => exact .of_effect (.unchanged _) _
  case isFalse hphase => exact .of_effect (.init hphase) _

theorem changes_final (s : State) : Changes s .final (execFinal s) := by
  unfold execFinal
  split
  case isTrue hphase => exact .of_effect (.final hphase) _
  case isFalse => exact .of_effect (.unchanged _) _

theorem changes_elmPush (s : State) : Changes s .elmPush (execElmPush s) := by
  unfold execElmPush
  split
  case isTrue hphase => exact .of_effect (.elmPush hphase) _
  case isFalse => exact .of_effect (.unchanged _) _

theorem changes_histRd (s : State) (h : BitVec 2) (idx : BitVec 16) :
    Changes s (.histRd h idx) (execHistRd h idx s) := by
  unfold execHistRd
  split
  · exact .of_effect (.unchanged _) _
  · split <;> exact .of_effect (.unchanged _) _

theorem changes_histWr (s : State) (h : BitVec 2) (idx : BitVec 16) (v : Byte) :
    Changes s (.histWr h idx v) (execHistWr h idx v s) := by
  unfold execHistWr
  split
  case h_1 => exact .of_effect (.unchanged _) _
  case h_2 sel hsel =>
    split
    case isTrue => exact .of_effect (.unchanged _) _
    case isFalse hidx => exact .of_effect (.histWr h idx v sel hsel (Nat.lt_of_not_le hidx)) _

/-- Every command changes the state as `Effect` says. -/
theorem exec_changes (i : Instr) (s : State) : Changes s i (exec i s) := by
  cases i with
  | pktSet k speed ext time => exact changes_pktSet s k speed ext time
  | pktApp k byte => exact changes_pktApp s k byte
  | crc5 k off n => exact changes_crc5 s k off n
  | crc16 k off n => exact changes_crc16 s k off n
  | elmSet etype estruct time => exact changes_elmSet s etype estruct time
  | init => exact changes_init s
  | final => exact changes_final s
  | elmPush => exact changes_elmPush s
  | histRd h idx => exact changes_histRd s h idx
  | histWr h idx v => exact changes_histWr s h idx v
  | pktClr k => exact .of_effect (.pktClr k) _
  | decay => exact .of_effect .decay _
  | clear => exact .of_effect .clear _
  | histClr => exact .of_effect .histClr _
  | cntWr c v => exact .of_effect (.cntWr c v) _
  | devWr a seen count => exact .of_effect (.devWr a seen count) _
  | pktRb | pktPid | pktSubpid | pktAddr | pktEndp | pktFrame | pktHubaddr | pktHubport | pktSc | pktS | pktE | pktEt
  | pktCrc5 | pktCrc5c | pktCrc16 | pktCrc16c | elmEmpty | elmAddr | elmEndp => exact changes_respondOption _
  | nop | pktLen | pktTime | pktAttr | pktEmpty | pktType | pktErrs | pktValid | elmType | elmTime | elmSpeed | elmErrs
  | elmValid | cntRd | devRd | devLast | statRd | orgRd => exact .of_effect (.unchanged _) _

/-- What a command that answers next has done: the change `Effect` gives, then one answer. -/
theorem effect_of_exec {i : Instr} {s t : State} (h : exec i s = .next t) : ∃ u r, Effect s i u ∧ t = u.answer r := by
  obtain ⟨u, r, hu, ho⟩ := exec_changes i s
  rw [h] at ho
  cases ho
  exact ⟨u, r, hu, rfl⟩

/-! ### The storage invariant (R21, R42, R47) -/

/-- The storage invariant reads the slots and the histograms only. -/
theorem State.StorageOk.congr {s t : State} (hs : s.StorageOk) (hslot : ∀ k, t.slot k = s.slot k)
    (hhist : ∀ h, t.hist h = s.hist h) : t.StorageOk where
  packetsFit k := hslot k ▸ hs.packetsFit k
  canonical h := hhist h ▸ hs.canonical h
  inBounds h := hhist h ▸ hs.inBounds h

theorem State.StorageOk.setSlot {s : State} (hs : s.StorageOk) (k : SlotId) {p : Packet}
    (hp : p.len ≤ Config.pktMax) : (s.setSlot k p).StorageOk where
  packetsFit j := by
    by_cases hj : j = k
    · subst hj
      rwa [State.slot_setSlot_same]
    · rw [State.slot_setSlot_ne s p hj]
      exact hs.packetsFit j
  canonical := by simpa only [State.hist_setSlot] using hs.canonical
  inBounds := by simpa only [State.hist_setSlot] using hs.inBounds

/-- What holds of every histogram and of the new one holds of every histogram after the replacement. -/
theorem State.forall_hist_setHist {s : State} {P : Memory → Prop} (hs : ∀ h, P (s.hist h)) (g : HistSel) {m : Memory}
    (hm : P m) (h : HistSel) : P ((s.setHist g m).hist h) := by
  by_cases hg : h = g
  · subst hg
    rwa [State.hist_setHist_same]
  · rw [State.hist_setHist_ne s m hg]
    exact hs h

theorem State.StorageOk.setHist {s : State} (hs : s.StorageOk) (g : HistSel) {m : Memory} (hm : m.wf)
    (hb : m.inBounds) : (s.setHist g m).StorageOk where
  packetsFit := by simpa only [State.slot_setHist] using hs.packetsFit
  canonical := State.forall_hist_setHist hs.canonical g hm
  inBounds := State.forall_hist_setHist hs.inBounds g hb

theorem State.StorageOk.mapHists {s : State} (hs : s.StorageOk) {f : Memory → Memory}
    (hwf : ∀ m : Memory, m.wf → (f m).wf) (hb : ∀ m : Memory, m.inBounds → (f m).inBounds) :
    (s.mapHists f).StorageOk where
  packetsFit := by simpa only [State.slot_mapHists] using hs.packetsFit
  canonical h := by
    rw [State.hist_mapHists]
    exact hwf _ (hs.canonical h)
  inBounds h := by
    rw [State.hist_mapHists]
    exact hb _ (hs.inBounds h)

theorem State.StorageOk.zeroAll {s : State} (hs : s.StorageOk) : s.zeroAll.StorageOk where
  packetsFit := by simpa only [State.slot_zeroAll] using hs.packetsFit
  canonical h := by
    rw [State.hist_zeroAll]
    exact Memory.wf_nil
  inBounds h := by
    rw [State.hist_zeroAll]
    exact Memory.inBounds_nil

theorem State.StorageOk.bucket {s : State} (hs : s.StorageOk) (h : HistSel) (k : SlotId) :
    (s.bucket h k).StorageOk :=
  hs.setHist h (wf_bucketInto _ _ (hs.canonical h)) (inBounds_bucketInto _ _ (hs.inBounds h))

theorem State.StorageOk.countTrack {s : State} (hs : s.StorageOk) (h : HistSel) (a : Option (BitVec 7)) :
    ((s.count h).track a).StorageOk :=
  hs.congr (by simp) (by simp)

theorem State.StorageOk.onElement {s : State} (hs : s.StorageOk) : s.onElement.StorageOk := by
  unfold State.onElement
  cases s.etype with
  | startOfFrame | keepAlive => exact hs.congr (State.slot_congr rfl) (State.hist_congr rfl rfl rfl)
  | transaction => exact (((hs.bucket _ _).bucket _ _).bucket _ _).countTrack _ _
  | splitTransaction => exact ((((hs.bucket _ _).bucket _ _).bucket _ _).bucket _ _).countTrack _ _
  | reset => exact hs.zeroAll
  | invalidPacket | lpmTransaction | suspended | powerChange | highSpeedHandshake | trigger => exact hs

/-- No command breaks the storage invariant: a full slot takes no byte, and a written cell lies in bounds. -/
theorem Effect.storageOk {s u : State} {i : Instr} (h : Effect s i u) (hs : s.StorageOk) : u.StorageOk := by
  cases h with
  | unchanged => exact hs
  | pktClr k | pktSet k => exact hs.setSlot k (Nat.zero_le _)
  | pktApp k byte hlen =>
    have hfit := hs.packetsFit k
    refine hs.setSlot k ?_
    simp only [Packet.len, List.length_append, List.length_singleton] at hlen hfit ⊢
    omega
  | elmSet | final | cntWr | devWr => exact hs.congr (State.slot_congr rfl) (State.hist_congr rfl rfl rfl)
  | init => exact hs.zeroAll.congr (State.slot_congr rfl) (State.hist_congr rfl rfl rfl)
  | elmPush => exact hs.onElement.congr (State.slot_congr rfl) (State.hist_congr rfl rfl rfl)
  | decay => exact hs.mapHists (fun _ => Memory.wf_mapCells _) (fun _ => Memory.inBounds_mapCells _)
  | clear => exact hs.zeroAll
  | histWr h idx v sel _ hidx =>
    exact hs.setHist sel (Memory.wf_write (hs.canonical sel) _ _) (Memory.inBounds_write (hs.inBounds sel) hidx _)
  | histClr => exact hs.mapHists (fun _ _ => Memory.wf_nil) (fun _ _ => Memory.inBounds_nil)

theorem State.StorageOk.answer {s : State} (hs : s.StorageOk) (r : Response) : (s.answer r).StorageOk :=
  hs.congr (State.slot_answer s r) (State.hist_answer s r)

theorem State.StorageOk.take {s : State} (hs : s.StorageOk) (rest : List HostEvent) : (s.take rest).StorageOk :=
  hs.congr (State.slot_take s rest) (State.hist_take s rest)

theorem exec_keeps_storageOk {i : Instr} {s t : State} (hs : s.StorageOk) (h : exec i s = .next t) : t.StorageOk := by
  obtain ⟨u, r, hu, rfl⟩ := effect_of_exec h
  exact (hu.storageOk hs).answer r

theorem slot_hardReset (rest : List HostEvent) (k : SlotId) : (hardReset rest).slot k = Packet.cleared := by
  cases k <;> rfl

theorem hist_hardReset (rest : List HostEvent) (h : HistSel) : (hardReset rest).hist h = [] := by cases h <;> rfl

theorem storageOk_hardReset (rest : List HostEvent) : (hardReset rest).StorageOk where
  packetsFit k := by
    rw [slot_hardReset]
    exact Nat.zero_le _
  canonical h := by
    rw [hist_hardReset]
    exact Memory.wf_nil
  inBounds h := by
    rw [hist_hardReset]
    exact Memory.inBounds_nil

/-! ### The commands the phase accepts or refuses (R191, R192, R193, R200) -/

theorem exec_init_of_run {s : State} (h : s.phase = .run) : exec .init s = .next (s.cmdError .phase) := if_pos h

theorem exec_init_of_not_run {s : State} (h : s.phase ≠ .run) :
    exec .init s = .next { s.zeroAll with phase := .run }.ack := if_neg h

theorem exec_final_of_run {s : State} (h : s.phase = .run) : exec .final s = .next { s with phase := .done }.ack :=
  if_pos h

theorem exec_final_of_not_run {s : State} (h : s.phase ≠ .run) : exec .final s = .next (s.cmdError .phase) := if_neg h

theorem exec_elmPush_of_run {s : State} (h : s.phase = .run) : exec .elmPush s = .next s.onElement.forward := if_pos h

theorem exec_elmPush_of_not_run {s : State} (h : s.phase ≠ .run) : exec .elmPush s = .next (s.cmdError .phase) :=
  if_neg h

/-! ### The zeroing events (R46, R218, R271) -/

theorem exec_clear (s : State) : exec .clear s = .next s.zeroAll.ack := rfl

theorem exec_histClr (s : State) : exec .histClr s = .next (s.mapHists fun _ => []).ack := rfl

theorem State.onElement_of_reset {s : State} (h : s.etype = .reset) : s.onElement = s.zeroAll := by
  simp only [State.onElement, h]

/-- A histogram that lists no cell reads 0 everywhere. -/
theorem cell_of_nil {s : State} {h : HistSel} (hnil : s.hist h = []) (j : Nat) : cell s h j = 0 := by
  rw [cell, hnil]
  rfl

/-- An accumulator as after hardware reset is zeroed. -/
theorem zeroed_of_reset {t : State} (h : SameAccumulator State.reset t) : Zeroed t := by
  obtain ⟨origin, hs, lastDev, cnt, devcnt, devseen, histIn, histOut, histNak⟩ := h
  refine ⟨origin, hs, lastDev, fun c => ?_, fun a => ?_, fun a => ?_, fun g j => cell_of_nil ?_ j⟩
  · simp [State.cntAt, cnt, State.reset]
  · simp [State.devcntAt, devcnt, State.reset]
  · simp [State.devseenAt, devseen, State.reset]
  · rw [State.hist_congr histIn histOut histNak]
    exact hist_hardReset [] g

theorem zeroed_hardReset (rest : List HostEvent) : Zeroed (hardReset rest) :=
  zeroed_of_reset ⟨rfl, rfl, rfl, rfl, rfl, rfl, rfl, rfl, rfl⟩

/-- The phase, the forward events and the answer are no part of what `zeroAll` zeroes. -/
theorem zeroed_answer_zeroAll (s : State) (p : Phase) (es : List ForwardEvent) (r : Response) :
    Zeroed ({ s.zeroAll with phase := p, trace := es }.answer r) :=
  zeroed_of_reset ⟨rfl, rfl, rfl, rfl, rfl, rfl, rfl, rfl, rfl⟩

theorem zeroed_forward_of_reset {s : State} (h : s.etype = .reset) : Zeroed s.onElement.forward := by
  rw [State.onElement_of_reset h]
  exact zeroed_answer_zeroAll s s.phase _ _

/-! ### The last tracked device (R38, R47, R209) -/

/-- The last tracked device, if there is one, is marked seen. -/
def State.LastDevSeen (s : State) : Prop := s.lastDev ≠ 0#7 → s.devseenAt s.lastDev = true

theorem State.LastDevSeen.congr {s t : State} (hs : s.LastDevSeen) (hlast : t.lastDev = s.lastDev)
    (hseen : t.devseen = s.devseen) : t.LastDevSeen := by
  unfold State.LastDevSeen State.devseenAt
  rw [hlast, hseen]
  exact hs

/-- With no device tracked there is nothing to mark. -/
theorem State.lastDevSeen_of_zero {s : State} (h : s.lastDev = 0#7) : s.LastDevSeen := fun hne => absurd h hne

/-- Tracking remembers a device only together with its mark. -/
theorem State.LastDevSeen.track {s : State} (hs : s.LastDevSeen) (a : Option (BitVec 7)) : (s.track a).LastDevSeen := by
  unfold State.track
  split
  · exact hs
  · split
    · exact hs
    · exact fun _ => by simp [State.devseenAt]

theorem State.LastDevSeen.onElement {s : State} (hs : s.LastDevSeen) : s.onElement.LastDevSeen := by
  unfold State.onElement
  cases s.etype with
  | startOfFrame | keepAlive => exact hs.congr rfl rfl
  | transaction => exact (hs.congr (by simp) (by simp)).track _
  | splitTransaction => exact (hs.congr (by simp) (by simp)).track _
  | reset => exact State.lastDevSeen_of_zero rfl
  | invalidPacket | lpmTransaction | suspended | powerChange | highSpeedHandshake | trigger => exact hs

/-- Only `DEV.WR` can unmark the last tracked device. -/
theorem Effect.lastDevSeen {s u : State} {i : Instr} (h : Effect s i u) (hi : ∀ a seen count, i ≠ .devWr a seen count)
    (hs : s.LastDevSeen) : u.LastDevSeen := by
  cases h with
  | unchanged => exact hs
  | pktClr | pktSet | pktApp | histWr => exact hs.congr (by simp) (by simp)
  | elmSet | final | decay | histClr | cntWr => exact hs.congr rfl rfl
  | init | clear => exact State.lastDevSeen_of_zero rfl
  | elmPush => exact hs.onElement.congr rfl rfl
  | devWr a seen count => exact absurd rfl (hi a seen count)

/-! ### The writers of each register (R34, R39, R209) -/

theorem State.onElement_origin_hs {s : State} (hzero : s.etype ≠ .reset) :
    (s.etype = .startOfFrame ∨ s.etype = .keepAlive) ∨ s.onElement.origin = s.origin ∧ s.onElement.hs = s.hs := by
  unfold State.onElement
  cases he : s.etype with
  | startOfFrame => exact .inl (.inl rfl)
  | keepAlive => exact .inl (.inr rfl)
  | reset => exact absurd he hzero
  | transaction => exact .inr (by simp [State.onTransaction])
  | splitTransaction => exact .inr (by simp [State.onSplit])
  | invalidPacket | lpmTransaction | suspended | powerChange | highSpeedHandshake | trigger => exact .inr ⟨rfl, rfl⟩

theorem State.onElement_lastDev {s : State} (hzero : s.etype ≠ .reset) :
    (s.etype = .transaction ∨ s.etype = .splitTransaction) ∨ s.onElement.lastDev = s.lastDev := by
  unfold State.onElement
  cases he : s.etype with
  | transaction => exact .inl (.inl rfl)
  | splitTransaction => exact .inl (.inr rfl)
  | reset => exact absurd he hzero
  | startOfFrame | keepAlive | invalidPacket | lpmTransaction | suspended | powerChange | highSpeedHandshake
  | trigger => exact .inr rfl

/-- `t` holds the same device entry `a` as `s`. -/
def SameDev (s t : State) (a : BitVec 7) : Prop := t.devcntAt a = s.devcntAt a ∧ t.devseenAt a = s.devseenAt a

theorem sameDev_of_tables {s t : State} (hcnt : t.devcnt = s.devcnt) (hseen : t.devseen = s.devseen) (a : BitVec 7) :
    SameDev s t a := by
  simp [SameDev, State.devcntAt, State.devseenAt, hcnt, hseen]

theorem sameDev_setDev_ne (s : State) {a d : BitVec 7} (h : a ≠ d) (b : Bool) (v : Word) :
    SameDev s (s.setDev a b v) d :=
  ⟨(State.devcntAt_setDev s a d b v).trans (if_neg h), (State.devseenAt_setDev s a d b v).trans (if_neg h)⟩

theorem SameDev.trans {s t u : State} {a : BitVec 7} (h : SameDev s t a) (h' : SameDev t u a) : SameDev s u a :=
  ⟨h'.1.trans h.1, h'.2.trans h.2⟩

/-- Address 0 is never tracked. -/
theorem sameDev_track_zero (s : State) (a : Option (BitVec 7)) : SameDev s (s.track a) 0#7 := by
  unfold State.track
  split
  · exact ⟨rfl, rfl⟩
  · split
    · exact ⟨rfl, rfl⟩
    case isFalse ha => exact sameDev_setDev_ne s ha _ _

theorem sameDev_onElement_zero {s : State} (hzero : s.etype ≠ .reset) : SameDev s s.onElement 0#7 := by
  unfold State.onElement
  cases he : s.etype with
  | reset => exact absurd he hzero
  | transaction => exact (sameDev_of_tables (by simp) (by simp) _).trans (sameDev_track_zero _ _)
  | splitTransaction => exact (sameDev_of_tables (by simp) (by simp) _).trans (sameDev_track_zero _ _)
  | startOfFrame | keepAlive | invalidPacket | lpmTransaction | suspended | powerChange | highSpeedHandshake
  | trigger => exact ⟨rfl, rfl⟩

/-- Command `i` does not zero the accumulator of `s`: no `INIT`, no `CLEAR`, no push of a Reset element. -/
structure NotZeroing (s : State) (i : Instr) : Prop where
  init  : i ≠ .init
  clear : i ≠ .clear
  push  : i = .elmPush → s.etype ≠ .reset

theorem Effect.origin_hs_writers {s u : State} {i : Instr} (h : Effect s i u) (hi : NotZeroing s i) :
    i = .elmPush ∧ (s.etype = .startOfFrame ∨ s.etype = .keepAlive) ∨ u.origin = s.origin ∧ u.hs = s.hs := by
  cases h with
  | init => exact absurd rfl hi.init
  | clear => exact absurd rfl hi.clear
  | elmPush => exact (State.onElement_origin_hs (hi.push rfl)).imp_left fun he => ⟨rfl, he⟩
  | unchanged | pktClr | pktSet | pktApp | elmSet | final | decay | histWr | histClr | cntWr | devWr =>
    exact .inr (by simp)

theorem Effect.lastDev_writers {s u : State} {i : Instr} (h : Effect s i u) (hi : NotZeroing s i) :
    i = .elmPush ∧ (s.etype = .transaction ∨ s.etype = .splitTransaction) ∨ u.lastDev = s.lastDev := by
  cases h with
  | init => exact absurd rfl hi.init
  | clear => exact absurd rfl hi.clear
  | elmPush => exact (State.onElement_lastDev (hi.push rfl)).imp_left fun he => ⟨rfl, he⟩
  | unchanged | pktClr | pktSet | pktApp | elmSet | final | decay | histWr | histClr | cntWr | devWr =>
    exact .inr (by simp)

theorem Effect.cntAt_writers {s u : State} {i : Instr} (h : Effect s i u) (hi : NotZeroing s i) (c : BitVec 3) :
    (i = .elmPush ∨ ∃ v, i = .cntWr c v) ∨ u.cntAt c = s.cntAt c := by
  cases h with
  | init => exact absurd rfl hi.init
  | clear => exact absurd rfl hi.clear
  | elmPush => exact .inl (.inl rfl)
  | cntWr d v =>
    rw [State.cntAt_setCnt]
    split
    case isTrue hd => exact .inl (.inr ⟨v, hd ▸ rfl⟩)
    case isFalse => exact .inr rfl
  | unchanged | pktClr | pktSet | pktApp | elmSet | final | decay | histWr | histClr | devWr =>
    exact .inr (by simp [State.cntAt])

theorem Effect.sameDev_writers {s u : State} {i : Instr} (h : Effect s i u) (hi : NotZeroing s i) (a : BitVec 7) :
    (i = .elmPush ∧ a ≠ 0#7 ∨ ∃ b v, i = .devWr a b v) ∨ SameDev s u a := by
  cases h with
  | init => exact absurd rfl hi.init
  | clear => exact absurd rfl hi.clear
  | elmPush =>
    by_cases ha : a = 0#7
    · subst ha
      exact .inr (sameDev_onElement_zero (hi.push rfl))
    · exact .inl (.inl ⟨rfl, ha⟩)
  | devWr d b v =>
    by_cases hd : d = a
    · exact .inl (.inr ⟨b, v, hd ▸ rfl⟩)
    · exact .inr (sameDev_setDev_ne s hd b v)
  | unchanged | pktClr | pktSet | pktApp | elmSet | final | decay | histWr | histClr | cntWr =>
    exact .inr (sameDev_of_tables (by simp) (by simp) a)

theorem cell_congr {s t : State} {h : HistSel} (hh : t.hist h = s.hist h) (j : Nat) : cell t h j = cell s h j := by
  rw [cell, cell, hh]

/-- Writing cell `i` of histogram `g` leaves every other cell of the three histograms alone. -/
theorem cell_setHist_write_ne {s : State} (hs : Canonical s) {g h : HistSel} {i j : Nat} (v : Byte)
    (hne : ¬ (i = j ∧ g = h)) : cell (s.setHist g ((s.hist g).write i v)) h j = cell s h j := by
  by_cases hg : h = g
  · subst hg
    rw [cell, State.hist_setHist_same, Memory.read_write (hs h), if_neg fun hij => hne ⟨hij, rfl⟩, cell]
  · exact cell_congr (State.hist_setHist_ne s _ hg) j

theorem Effect.cell_writers {s u : State} {i : Instr} (h : Effect s i u) (hi : NotZeroing s i) (hs : Canonical s)
    (g : HistSel) (j : Nat) :
    (i = .elmPush ∨ i = .decay ∨ i = .histClr ∨
      ∃ x y v, i = .histWr x y v ∧ y.toNat = j ∧ HistSel.ofCode? x = some g) ∨ cell u g j = cell s g j := by
  cases h with
  | init => exact absurd rfl hi.init
  | clear => exact absurd rfl hi.clear
  | elmPush => exact .inl (.inl rfl)
  | decay => exact .inl (.inr (.inl rfl))
  | histClr => exact .inl (.inr (.inr (.inl rfl)))
  | histWr x y v sel hsel =>
    by_cases hcell : y.toNat = j ∧ sel = g
    · obtain ⟨hj, rfl⟩ := hcell
      exact .inl (.inr (.inr (.inr ⟨x, y, v, rfl, hj, hsel⟩)))
    · exact .inr (cell_setHist_write_ne hs v hcell)
  | unchanged => exact .inr rfl
  | pktClr | pktSet | pktApp => exact .inr (cell_congr (State.hist_setSlot s _ _ g) j)
  | elmSet | final | cntWr | devWr => exact .inr (cell_congr (State.hist_congr rfl rfl rfl g) j)

/-! ### Two states that differ in the speed context only (R30) -/

/-- `s` with the speed context `b`. -/
def State.withHs (s : State) (b : Bool) : State := { s with hs := b }

/-- Run on states that differ in the speed context only, `f` answers next states that differ there only. -/
def HsConfined (f : State → Host.Outcome State Fault Refusal) : Prop :=
  ∀ s b, ∃ t b', f s = .next t ∧ f (s.withHs b) = .next (t.withHs b')

section
variable (s : State) (b : Bool)

@[simp] theorem State.etype_withHs : (s.withHs b).etype = s.etype := rfl

@[simp] theorem State.classify_withHs : (s.withHs b).classify = s.classify := rfl

@[simp] theorem State.elmAddr_withHs : (s.withHs b).elmAddr = s.elmAddr := rfl

@[simp] theorem State.slot_withHs (k : SlotId) : (s.withHs b).slot k = s.slot k := State.slot_congr rfl k

@[simp] theorem State.hist_withHs (h : HistSel) : (s.withHs b).hist h = s.hist h := State.hist_congr rfl rfl rfl h

@[simp] theorem State.setSlot_withHs (k : SlotId) (p : Packet) :
    (s.withHs b).setSlot k p = (s.setSlot k p).withHs b := by cases k <;> rfl

@[simp] theorem State.setHist_withHs (h : HistSel) (m : Memory) :
    (s.withHs b).setHist h m = (s.setHist h m).withHs b := by cases h <;> rfl

@[simp] theorem State.answer_withHs (r : Response) : (s.withHs b).answer r = (s.answer r).withHs b := rfl

@[simp] theorem State.bucket_withHs (h : HistSel) (k : SlotId) :
    (s.withHs b).bucket h k = (s.bucket h k).withHs b := by
  simp only [State.bucket, State.slot_withHs, State.hist_withHs, State.setHist_withHs]
  rfl

@[simp] theorem State.incCnt_withHs (c : BitVec 3) : (s.withHs b).incCnt c = (s.incCnt c).withHs b := rfl

@[simp] theorem State.incCntIf_withHs (q : Bool) (c : BitVec 3) :
    (s.withHs b).incCntIf q c = (s.incCntIf q c).withHs b := by cases q <;> rfl

@[simp] theorem State.count_withHs (h : HistSel) : (s.withHs b).count h = (s.count h).withHs b := by
  simp only [State.count, State.slot_withHs, State.incCnt_withHs, State.incCntIf_withHs]

@[simp] theorem State.track_withHs (a : Option (BitVec 7)) : (s.withHs b).track a = (s.track a).withHs b := by
  unfold State.track
  split
  · rfl
  · split <;> rfl

theorem State.onTransaction_withHs : (s.withHs b).onTransaction = s.onTransaction.withHs b := by
  simp only [State.onTransaction, State.classify_withHs, State.elmAddr_withHs, State.bucket_withHs,
    State.count_withHs, State.track_withHs]

theorem State.onSplit_withHs : (s.withHs b).onSplit = s.onSplit.withHs b := by
  simp only [State.onSplit, State.classify_withHs, State.slot_withHs, State.bucket_withHs, State.count_withHs,
    State.track_withHs]

/-- The handlers never read the speed context; the frame markers and the zeroing overwrite it. -/
theorem State.onElement_withHs : ∃ b', (s.withHs b).onElement = s.onElement.withHs b' := by
  simp only [State.onElement, State.etype_withHs]
  cases s.etype with
  | startOfFrame => exact ⟨s.onSof.hs, rfl⟩
  | keepAlive => exact ⟨false, rfl⟩
  | reset => exact ⟨false, rfl⟩
  | transaction => exact ⟨b, s.onTransaction_withHs b⟩
  | splitTransaction => exact ⟨b, s.onSplit_withHs b⟩
  | invalidPacket | lpmTransaction | suspended | powerChange | highSpeedHandshake | trigger => exact ⟨b, rfl⟩

theorem State.forward_withHs : (s.withHs b).forward = s.forward.withHs b := rfl

end

/-- A command that only answers, with an answer that does not read the speed context. -/
theorem hsConfined_answer {r : State → Response} (hr : ∀ s b, r (s.withHs b) = r s) :
    HsConfined fun s => .next (s.answer (r s)) := fun s b => ⟨_, b, rfl, by simp only [hr, State.answer_withHs]⟩

theorem hsConfined_respondOption {w : Nat} {v : State → Option (BitVec w)} (hv : ∀ s b, v (s.withHs b) = v s) :
    HsConfined fun s => .next (s.respondOption (v s)) := by
  simp only [State.respondOption_eq]
  exact hsConfined_answer fun s b => by rw [hv]

theorem hsConfined_pktClr (k : SlotId) : HsConfined (execPktClr k) := by
  intro s b
  simp only [execPktClr, State.setSlot_withHs]
  exact ⟨_, b, rfl, rfl⟩

theorem hsConfined_pktSet (k : SlotId) (speed : BitVec 3) (ext : Bool) (time : Time) :
    HsConfined (execPktSet k speed ext time) := by
  intro s b
  simp only [execPktSet, State.setSlot_withHs]
  split <;> exact ⟨_, b, rfl, rfl⟩

theorem hsConfined_pktApp (k : SlotId) (byte : Byte) : HsConfined (execPktApp k byte) := by
  intro s b
  simp only [execPktApp, State.slot_withHs, State.setSlot_withHs]
  split <;> exact ⟨_, b, rfl, rfl⟩

theorem hsConfined_crc5 (k : SlotId) (off n : BitVec 11) : HsConfined (execCrc5 k off n) := by
  intro s b
  simp only [execCrc5, State.slot_withHs]
  split <;> exact ⟨_, b, rfl, rfl⟩

theorem hsConfined_crc16 (k : SlotId) (off n : BitVec 11) : HsConfined (execCrc16 k off n) := by
  intro s b
  simp only [execCrc16, State.slot_withHs]
  split <;> exact ⟨_, b, rfl, rfl⟩

theorem hsConfined_elmSet (etype : BitVec 4) (estruct : BitVec 3) (time : Time) :
    HsConfined (execElmSet etype estruct time) := by
  intro s b
  unfold execElmSet
  split <;> exact ⟨_, b, rfl, rfl⟩

theorem hsConfined_init : HsConfined (exec .init) := by
  intro s b
  by_cases hphase : s.phase = .run
  · exact ⟨_, b, exec_init_of_run hphase, exec_init_of_run hphase⟩
  · exact ⟨_, false, exec_init_of_not_run hphase, exec_init_of_not_run hphase⟩

theorem hsConfined_final : HsConfined (exec .final) := by
  intro s b
  by_cases hphase : s.phase = .run
  · exact ⟨_, b, exec_final_of_run hphase, exec_final_of_run hphase⟩
  · exact ⟨_, b, exec_final_of_not_run hphase, exec_final_of_not_run hphase⟩

theorem hsConfined_elmPush : HsConfined (exec .elmPush) := by
  intro s b
  by_cases hphase : s.phase = .run
  · obtain ⟨b', hb'⟩ := s.onElement_withHs b
    refine ⟨_, b', exec_elmPush_of_run hphase, ?_⟩
    rw [exec_elmPush_of_run (s := s.withHs b) hphase, hb', State.forward_withHs]
  · exact ⟨_, b, exec_elmPush_of_not_run hphase, exec_elmPush_of_not_run hphase⟩

theorem hsConfined_histRd (h : BitVec 2) (idx : BitVec 16) : HsConfined (execHistRd h idx) := by
  intro s b
  simp only [execHistRd, State.hist_withHs]
  split
  · exact ⟨_, b, rfl, rfl⟩
  · split <;> exact ⟨_, b, rfl, rfl⟩

theorem hsConfined_histWr (h : BitVec 2) (idx : BitVec 16) (v : Byte) : HsConfined (execHistWr h idx v) := by
  intro s b
  simp only [execHistWr, State.hist_withHs, State.setHist_withHs]
  split
  · exact ⟨_, b, rfl, rfl⟩
  · split <;> exact ⟨_, b, rfl, rfl⟩

/-- `STAT.RD` is the only command through which the speed context reaches anything else. -/
theorem hsConfined_exec {i : Instr} (hi : i ≠ .statRd) : HsConfined (exec i) := by
  cases i with
  | statRd => exact absurd rfl hi
  | pktSet k speed ext time => exact hsConfined_pktSet k speed ext time
  | pktApp k byte => exact hsConfined_pktApp k byte
  | crc5 k off n => exact hsConfined_crc5 k off n
  | crc16 k off n => exact hsConfined_crc16 k off n
  | elmSet etype estruct time => exact hsConfined_elmSet etype estruct time
  | init => exact hsConfined_init
  | final => exact hsConfined_final
  | elmPush => exact hsConfined_elmPush
  | histRd h idx => exact hsConfined_histRd h idx
  | histWr h idx v => exact hsConfined_histWr h idx v
  | pktClr k => exact hsConfined_pktClr k
  | clear => exact fun s b => ⟨_, false, rfl, rfl⟩
  | nop | decay | histClr | cntWr | devWr => exact fun s b => ⟨_, b, rfl, rfl⟩
  | pktRb | pktPid | pktSubpid | pktAddr | pktEndp | pktFrame | pktHubaddr | pktHubport | pktSc | pktS | pktE | pktEt
  | pktCrc5 | pktCrc5c | pktCrc16 | pktCrc16c | elmEmpty | elmAddr | elmEndp =>
    exact hsConfined_respondOption fun _ _ => rfl
  | pktLen | pktTime | pktAttr | pktEmpty | pktType | pktErrs | pktValid | elmType | elmTime | elmSpeed | elmErrs
  | elmValid | cntRd | devRd | devLast | orgRd => exact hsConfined_answer fun _ _ => rfl

/-! ### What the frame markers set (R30, R177) -/

/-- `elm_speed()` of a StartOfFrame element is the speed of its one packet. -/
theorem State.elmSpeed_of_startOfFrame {s : State} (h : s.etype = .startOfFrame) : s.elmSpeed = firstSpeed s [.spl] := by
  simp only [State.elmSpeed, State.elmPackets, h, EType.cons, firstSpeed, Packet.isEmpty, Packet.len]
  cases hbuf : (s.slot .spl).buf <;> simp [hbuf]

theorem State.onElement_hs_of_startOfFrame {s : State} (h : s.etype = .startOfFrame) :
    s.onElement.hs = decide (firstSpeed s [.spl] = .high) := by
  rw [← State.elmSpeed_of_startOfFrame h, State.onElement, h]
  rfl

theorem State.onElement_hs_of_keepAlive {s : State} (h : s.etype = .keepAlive) : s.onElement.hs = false := by
  rw [State.onElement, h]
  rfl

end Sys2Proof.Machine

namespace Sys2Proof.Proofs

open Sys2Proof.Machine Sys2Proof.Stmt

/-- Settles O12, by the event the step takes; a command keeps the invariant because `Effect` does. -/
theorem stepKeepsStorageOk : Obligations.StepKeepsStorageOk := by
  intro s t hs hstep
  unfold State.StepsTo at hstep
  match hin : s.inputs with
  | [] =>
    rw [step_of_no_event hin] at hstep
    cases hstep
    exact hs
  | .reset :: rest =>
    rw [step_of_reset hin] at hstep
    cases hstep
    exact storageOk_hardReset rest
  | .command c :: rest =>
    match hc : decode c with
    | .error e =>
      rw [step_of_decode_error hin hc] at hstep
      cases hstep
      exact (hs.take rest).answer _
    | .ok i =>
      rw [step_of_decode_ok hin hc] at hstep
      exact exec_keeps_storageOk (hs.take rest) hstep

/-- Settles O14: the reset state is what hardware reset leaves with no event waiting. -/
theorem resetMeetsTheInvariants : Obligations.ResetMeetsTheInvariants :=
  ⟨storageOk_hardReset [], outputsOk_hardReset []⟩

/-- Settles O11: each event leaves `zeroAll`, the reset state or cleared histograms, and its refusals are those of the
phase. -/
theorem resetAndZeroingEvents : Obligations.ResetAndZeroingEvents := by
  refine ⟨fun s rest hin => ?_, fun s hphase => ?_, fun s hphase => ?_, fun s => ?_, fun s hphase htype => ?_,
    fun s hphase => ?_, fun s => ?_⟩
  · exact ⟨_, step_of_reset hin, zeroed_hardReset rest, rfl, rfl, rfl, rfl, slot_hardReset rest, rfl⟩
  · exact ⟨_, exec_init_of_not_run hphase, zeroed_answer_zeroAll s .run s.trace _, rfl, ⟨rfl, rfl, rfl, rfl⟩, rfl⟩
  · exact exec_init_of_run hphase
  · exact ⟨_, exec_clear s, zeroed_answer_zeroAll s s.phase s.trace _, rfl, ⟨rfl, rfl, rfl, rfl⟩, rfl⟩
  · have hf := forwarded_onElement s
    exact ⟨_, exec_elmPush_of_run hphase, zeroed_forward_of_reset htype, hf.phase.trans hphase,
      ⟨hf.slots, hf.etype, hf.etime, hf.estruct⟩, hf.trace⟩
  · exact exec_elmPush_of_not_run hphase
  · exact ⟨_, exec_histClr s, fun h j => cell_of_nil (by simp) j, rfl, rfl, rfl, rfl, rfl, rfl, rfl,
      ⟨rfl, rfl, rfl, rfl⟩, rfl⟩

/-- Settles O15: tracking marks the device it remembers, and the zeroing events forget it. -/
theorem lastDeviceStaysSeen : Obligations.LastDeviceStaysSeen := by
  intro i s t hi hs hexec
  obtain ⟨u, r, hu, rfl⟩ := effect_of_exec hexec
  exact hu.lastDevSeen hi hs

/-- Settles O19, register by register. -/
theorem accumulatorWriters : Obligations.AccumulatorWriters := by
  intro i s t hexec hinit hclear hpush
  obtain ⟨u, r, hu, rfl⟩ := effect_of_exec hexec
  have hi : NotZeroing s i := ⟨hinit, hclear, hpush⟩
  refine ⟨hu.origin_hs_writers hi, hu.lastDev_writers hi, fun c hne => ?_, fun a hne => ?_, fun hs h j hne => ?_⟩
  · exact (hu.cntAt_writers hi c).resolve_right hne
  · exact (hu.sameDev_writers hi a).resolve_right fun hsame => hne.elim (absurd hsame.1) (absurd hsame.2)
  · exact (hu.cell_writers hi hs h j).resolve_right fun hsame =>
      hne ((cell_congr (State.hist_answer u r h) j).trans hsame)

/-- Settles O20: what sets the speed context, and that `hsConfined_exec` lets it reach nothing else. -/
theorem speedContextIsReadByStatOnly : Obligations.SpeedContextIsReadByStatOnly := by
  refine ⟨fun s t hphase hexec => ?_, fun s t hphase hexec => ?_, fun s t hexec => ?_, fun s t rest hin hstep => ?_,
    fun i s t b hi hexec => ?_⟩
  · rw [exec_elmPush_of_run hphase] at hexec
    cases hexec
    refine ⟨fun h => State.onElement_hs_of_startOfFrame h, fun h => ?_⟩
    rcases h with h | h
    · exact State.onElement_hs_of_keepAlive h
    · exact (zeroed_forward_of_reset h).hs
  · rw [exec_init_of_not_run hphase] at hexec
    cases hexec
    rfl
  · rw [exec_clear] at hexec
    cases hexec
    rfl
  · rw [step_of_reset hin] at hstep
    cases hstep
    rfl
  · obtain ⟨u, b', hu, hb⟩ := hsConfined_exec hi s b
    rw [hu] at hexec
    cases hexec
    exact ⟨b', hb⟩

end Sys2Proof.Proofs
end

section
/-! PROOFS. Which commands may be issued twice (spec/20_memory.md R56): a read only answers, and its answer does not depend
on the answers before it; an idempotent write finds its own result in place. -/

namespace Sys2Proof.Machine

open Sys2Proof.Stmt

/-! ### Reads -/

/-- Run on `s`, `f` gives an answer and does nothing else, and it gives that answer whatever was answered before. -/
def OnlyAnswers (f : State → Host.Outcome State Fault Refusal) : Prop :=
  ∀ s, ∃ r, f s = .next (s.answer r) ∧ ∀ q, f (s.answer q) = .next ((s.answer q).answer r)

theorem onlyAnswers_answer {r : State → Response} (hr : ∀ s q, r (s.answer q) = r s) :
    OnlyAnswers fun s => .next (s.answer (r s)) := fun s => ⟨r s, rfl, fun q => by simp only [hr]⟩

theorem onlyAnswers_respondOption {w : Nat} {v : State → Option (BitVec w)} (hv : ∀ s q, v (s.answer q) = v s) :
    OnlyAnswers fun s => .next (s.respondOption (v s)) := by
  simp only [State.respondOption_eq]
  exact onlyAnswers_answer fun s q => by rw [hv]

theorem onlyAnswers_crc5 (k : SlotId) (off n : BitVec 11) : OnlyAnswers (execCrc5 k off n) := by
  intro s
  simp only [execCrc5, State.slot_answer]
  split <;> exact ⟨_, rfl, fun _ => rfl⟩

theorem onlyAnswers_crc16 (k : SlotId) (off n : BitVec 11) : OnlyAnswers (execCrc16 k off n) := by
  intro s
  simp only [execCrc16, State.slot_answer]
  split <;> exact ⟨_, rfl, fun _ => rfl⟩

theorem onlyAnswers_histRd (h : BitVec 2) (idx : BitVec 16) : OnlyAnswers (execHistRd h idx) := by
  intro s
  simp only [execHistRd, State.hist_answer]
  split
  · exact ⟨_, rfl, fun _ => rfl⟩
  · split <;> exact ⟨_, rfl, fun _ => rfl⟩

/-- The commands R56 names as reads only answer. -/
theorem onlyAnswers_exec {i : Instr} (hi : isRead i = true) : OnlyAnswers (exec i) := by
  cases i with
  | crc5 k off n => exact onlyAnswers_crc5 k off n
  | crc16 k off n => exact onlyAnswers_crc16 k off n
  | histRd h idx => exact onlyAnswers_histRd h idx
  | pktRb | pktPid | pktSubpid | pktAddr | pktEndp | pktFrame | pktHubaddr | pktHubport | pktSc | pktS | pktE | pktEt
  | pktCrc5 | pktCrc5c | pktCrc16 | pktCrc16c | elmEmpty | elmAddr | elmEndp =>
    exact onlyAnswers_respondOption fun _ _ => rfl
  | nop | pktLen | pktTime | pktAttr | pktEmpty | pktType | pktErrs | pktValid | elmType | elmTime | elmSpeed | elmErrs
  | elmValid | cntRd | devRd | devLast | statRd | orgRd => exact onlyAnswers_answer fun _ _ => rfl
  | pktClr | pktSet | pktApp | elmSet | init | final | elmPush | decay | clear | histWr | histClr | cntWr | devWr =>
    cases hi

/-! ### Writing the same place twice, and writing after an answer -/

section
variable (s : State)

@[simp] theorem State.setSlot_answer (r : Response) (k : SlotId) (p : Packet) :
    (s.answer r).setSlot k p = (s.setSlot k p).answer r := by cases k <;> rfl

@[simp] theorem State.setHist_answer (r : Response) (h : HistSel) (m : Memory) :
    (s.answer r).setHist h m = (s.setHist h m).answer r := by cases h <;> rfl

@[simp] theorem State.setSlot_setSlot (k : SlotId) (p q : Packet) : (s.setSlot k p).setSlot k q = s.setSlot k q := by
  cases k <;> rfl

@[simp] theorem State.setHist_setHist (h : HistSel) (m n : Memory) : (s.setHist h m).setHist h n = s.setHist h n := by
  cases h <;> rfl

@[simp] theorem State.setCnt_setCnt (c : BitVec 3) (v w : Word) : (s.setCnt c v).setCnt c w = s.setCnt c w := by
  simp only [State.setCnt, Vector.set_set]

@[simp] theorem State.setDev_setDev (a : BitVec 7) (b d : Bool) (v w : Word) :
    (s.setDev a b v).setDev a d w = s.setDev a d w := by
  simp only [State.setDev, Vector.set_set]

end

/-! ### Idempotent writes -/

/-- Issued again where it led from `s`, `f` changes nothing but adds an answer. -/
def SettlesFrom (s : State) (f : State → Host.Outcome State Fault Refusal) : Prop :=
  ∃ t r, f s = .next t ∧ f t = .next (t.answer r)

section
variable {s : State} {f : State → Host.Outcome State Fault Refusal}

theorem settlesFrom_of_refused {e : CmdError} (hf : ∀ s, f s = .next (s.cmdError e)) : SettlesFrom s f :=
  ⟨_, _, hf s, hf _⟩

/-- An acknowledged write that does not depend on the answers given, and that its own result leaves nothing to do. -/
theorem settlesFrom_of_ack {g : State → State} (hf : ∀ s, f s = .next (g s).ack)
    (hanswer : ∀ s r, g (s.answer r) = (g s).answer r) (hidem : g (g s) = g s) : SettlesFrom s f := by
  have hack : g (g s).ack = (g s).ack := (hanswer (g s) _).trans (congrArg State.ack hidem)
  refine ⟨(g s).ack, ⟨0#64, false, 0#3, false⟩, hf s, ?_⟩
  rw [hf, hack, State.ack_eq (g s).ack]

end

theorem settlesFrom_pktSet (s : State) (k : SlotId) (speed : BitVec 3) (ext : Bool) (time : Time) :
    SettlesFrom s (execPktSet k speed ext time) := by
  cases hv : Speed.ofCode? speed with
  | none => exact settlesFrom_of_refused (e := .reserved) fun _ => by simp only [execPktSet, hv]
  | some v =>
    exact settlesFrom_of_ack (g := fun s => s.setSlot k ⟨[], time, v, ext⟩) (fun _ => by simp only [execPktSet, hv])
      (fun _ _ => State.setSlot_answer _ _ _ _) (State.setSlot_setSlot _ _ _ _)

theorem settlesFrom_elmSet (s : State) (etype : BitVec 4) (estruct : BitVec 3) (time : Time) :
    SettlesFrom s (execElmSet etype estruct time) := by
  cases he : EType.ofCode? etype with
  | none => exact settlesFrom_of_refused (e := .reserved) fun _ => by simp only [execElmSet, he]
  | some e =>
    exact settlesFrom_of_ack (g := fun s => { s with etype := e, estruct := estruct, etime := time })
      (fun _ => by simp only [execElmSet, he]) (fun _ _ => rfl) rfl

/-- The canonical form makes the second write of a cell leave the very list of cells the first one left. -/
theorem settlesFrom_histWr {s : State} (hs : Canonical s) (h : BitVec 2) (idx : BitVec 16) (v : Byte) :
    SettlesFrom s (execHistWr h idx v) := by
  cases hsel : HistSel.ofCode? h with
  | none => exact settlesFrom_of_refused (e := .reserved) fun _ => by simp only [execHistWr, hsel]
  | some sel =>
    by_cases hidx : Config.histLen ≤ idx.toNat
    · exact settlesFrom_of_refused (e := .range) fun _ => by simp only [execHistWr, hsel, if_pos hidx]
    · exact settlesFrom_of_ack (g := fun s => s.setHist sel ((s.hist sel).write idx.toNat v))
        (fun _ => by simp only [execHistWr, hsel, if_neg hidx])
        (fun _ _ => by simp only [State.hist_answer, State.setHist_answer])
        (by simp only [State.hist_setHist_same, State.setHist_setHist, Memory.write_write (hs sel)])

/-- The commands R56 names as idempotent writes settle at once. -/
theorem settlesFrom_exec {i : Instr} {s : State} (hi : isIdempotentWrite i = true) (hs : Canonical s) :
    SettlesFrom s (exec i) := by
  cases i with
  | pktSet k speed ext time => exact settlesFrom_pktSet s k speed ext time
  | elmSet etype estruct time => exact settlesFrom_elmSet s etype estruct time
  | histWr h idx v => exact settlesFrom_histWr hs h idx v
  | pktClr k =>
    exact settlesFrom_of_ack (fun _ => rfl) (fun _ _ => State.setSlot_answer _ _ _ _) (State.setSlot_setSlot _ _ _ _)
  | cntWr c v => exact settlesFrom_of_ack (fun _ => rfl) (fun _ _ => rfl) (State.setCnt_setCnt _ _ _ _)
  | devWr a seen count => exact settlesFrom_of_ack (fun _ => rfl) (fun _ _ => rfl) (State.setDev_setDev _ _ _ _ _ _)
  | clear | histClr => exact settlesFrom_of_ack (fun _ => rfl) (fun _ _ => rfl) rfl
  | _ => cases hi

end Sys2Proof.Machine

namespace Sys2Proof.Proofs

open Sys2Proof.Machine Sys2Proof.Stmt

/-- Settles O16. The three commands that are not idempotent grow a packet, count a StartOfFrame, and decay a cell of 255
once more. -/
theorem readsHaveNoSideEffect : Obligations.ReadsHaveNoSideEffect := by
  refine ⟨fun i s hi => ?_, fun i s t hi hs hexec => ?_, ?_, ?_, ?_⟩
  · obtain ⟨r, hr, hagain⟩ := onlyAnswers_exec hi s
    refine ⟨r, hr, (hagain r).trans ?_⟩
    simp only [State.answer, List.append_assoc, List.singleton_append]
  · obtain ⟨u, r, hu, hr⟩ := settlesFrom_exec hi hs
    rw [hu] at hexec
    cases hexec
    exact ⟨r, hr⟩
  · exact ⟨.spl, 0#8, State.reset, _, _, rfl, rfl, by decide⟩
  · exact ⟨{ State.reset with phase := .run, etype := .startOfFrame }, _, _, rfl, rfl, by decide⟩
  · exact ⟨{ State.reset with histIn := [(0, 255#8)] }, _, _, rfl, rfl, by decide⟩

end Sys2Proof.Proofs
end

section
/-! PROOFS. Decoding and encoding (spec/30_encoding.md R70 to R76): the model's opcode map against the table of the
statements, what every row reads from a word and what that encodes to, and from them what a command word does. -/

namespace Sys2Proof

open Sys2Proof.Stmt Sys2Proof.Machine

/-! ### The opcode map and the statements' table (R71, R72) -/

theorem Command.toNat_op (c : Command) : c.op.toNat = fld c.cw 31 24 := by
  simp [Command.op, fld, bits, Nat.shiftRight_eq_div_pow]

/-- The statements' table lists the opcodes of the model's map with the fixed bits of their formats below the opcode. -/
theorem mbzTable_perm_opTable :
    mbzTable.Perm (opTable.map fun r => (r.op.toNat, r.fmt.mask.toNat % 2 ^ 24)) := by decide

theorem nodup_opcodes : (opTable.map OpRow.op).Nodup := by decide

/-- The opcode alone selects the row. -/
theorem rowOf_eq_some_iff {c : Command} {r : OpRow} : rowOf c = some r ↔ r ∈ opTable ∧ r.op = c.op := by
  constructor
  · exact fun h => ⟨List.mem_of_find?_eq_some h, by simpa using List.find?_some h⟩
  · rintro ⟨hmem, hop⟩
    cases hrow : rowOf c with
    | none => exact absurd hop (by simpa using List.find?_eq_none.1 hrow r hmem)
    | some r' =>
      have hop' : r'.op = c.op := by simpa using List.find?_some hrow
      rw [List.inj_on_of_nodup_map nodup_opcodes (List.mem_of_find?_eq_some hrow) hmem (hop'.trans hop.symm)]

theorem assigned_eq_isSome_rowOf (c : Command) : assigned c.cw = (rowOf c).isSome := by
  have hop : ∀ r : OpRow, (r.op.toNat == fld c.cw 31 24) = (r.op == c.op) := fun r => by
    rw [← c.toNat_op, Bool.eq_iff_iff, beq_iff_eq, beq_iff_eq, BitVec.toNat_inj]
  rw [assigned, mbzTable_perm_opTable.any_eq, List.any_map, rowOf, List.isSome_find?]
  exact congrArg _ (funext hop)

/-- 203 is 256 less the 53 opcodes of the table, which differ from each other and are bytes. -/
theorem length_unassigned :
    ((List.range 256).filter fun op => !mbzTable.any fun r => r.1 == op).length = 203 := by
  have hnodup : (mbzTable.map Prod.fst).Nodup := by decide
  have hlt : ∀ op ∈ mbzTable.map Prod.fst, op < 256 := by decide
  have hlen : mbzTable.length = 53 := by decide
  have hassigned : ((List.range 256).filter fun op => mbzTable.any fun r => r.1 == op).Perm (mbzTable.map Prod.fst) := by
    refine (List.perm_ext_iff_of_nodup (List.nodup_range.filter _) hnodup).2 fun op => ?_
    rw [List.mem_filter, List.mem_range, List.any_eq_true, List.mem_map]
    simp only [beq_iff_eq, and_iff_right_iff_imp]
    exact fun h => hlt op (List.mem_map.2 h)
  have hsplit := List.length_eq_length_filter_add (l := List.range 256) fun op => mbzTable.any fun r => r.1 == op
  rw [hassigned.length_eq, List.length_range, List.length_map, hlen] at hsplit
  omega

/-! ### The fixed bits of a row (R71) -/

theorem Format.getLsbD_mask_of_ge (f : Format) {i : Nat} (hi : 24 ≤ i) : f.mask.getLsbD i = decide (i < 32) := by
  by_cases hlt : i < 32
  · cases f <;> interval_cases i <;> rfl
  · rw [BitVec.getLsbD_of_ge _ _ (Nat.le_of_not_lt hlt), decide_eq_false hlt]

theorem Command.getLsbD_op_shift (c : Command) (i : Nat) :
    (c.op.setWidth 32 <<< 24).getLsbD i = (decide (24 ≤ i) && c.cw.getLsbD i) := by
  simp only [Command.op, BitVec.getLsbD_shiftLeft, BitVec.getLsbD_setWidth, BitVec.getLsbD_extractLsb']
  by_cases hi : 24 ≤ i
  · by_cases hlt : i < 32
    · simp [hi, hlt, show i - 24 < 8 by omega, show i - 24 < 32 by omega]
    · simp [BitVec.getLsbD_of_ge c.cw i (Nat.le_of_not_lt hlt), hlt]
  · simp [hi]

/-- Bit by bit: above bit 23 the mask is all ones and the opcode agrees, below it the shifted opcode is zero. -/
theorem OpRow.fits_eq {r : OpRow} {c : Command} (h : r.op = c.op) :
    r.fits c = (c.cw.toNat &&& r.fmt.mask.toNat % 2 ^ 24 == 0) := by
  have hbit : ∀ i, (c.cw &&& r.fmt.mask).getLsbD i = (c.op.setWidth 32 <<< 24).getLsbD i ↔
      (c.cw.toNat &&& r.fmt.mask.toNat % 2 ^ 24).testBit i = Nat.testBit 0 i := fun i => by
    rw [Command.getLsbD_op_shift, BitVec.getLsbD_and, Nat.testBit_and, Nat.testBit_mod_two_pow, BitVec.testBit_toNat,
      BitVec.testBit_toNat, Nat.zero_testBit]
    by_cases hi : 24 ≤ i
    · rw [Format.getLsbD_mask_of_ge _ hi]
      by_cases hlt : i < 32
      · simp [hi, hlt, Nat.not_lt.2 hi]
      · simp [BitVec.getLsbD_of_ge c.cw i (Nat.le_of_not_lt hlt)]
    · simp [hi, Nat.lt_of_not_le hi]
  rw [OpRow.fits, Bool.eq_iff_iff, beq_iff_eq, beq_iff_eq, h]
  constructor
  · exact fun hw => Nat.eq_of_testBit_eq fun i => (hbit i).1 (by rw [hw])
  · exact fun hz => BitVec.eq_of_getLsbD_eq fun i _ => (hbit i).2 (by rw [hz])

theorem mbzSet_eq_not_fits {c : Command} {r : OpRow} (h : rowOf c = some r) : mbzSet c.cw = !r.fits c := by
  rw [mbzSet, mbzTable_perm_opTable.any_eq, List.any_map, ← c.toNat_op,
    OpRow.fits_eq (rowOf_eq_some_iff.1 h).2, Bool.eq_iff_iff, List.any_eq_true]
  have hunique : ∀ x ∈ opTable, x.op = c.op → x = r := fun x hx hop =>
    Option.some.inj ((rowOf_eq_some_iff.2 ⟨hx, hop⟩).symm.trans h)
  simp only [Function.comp_apply, Bool.and_eq_true, beq_iff_eq, BitVec.toNat_inj]
  constructor
  · rintro ⟨x, hx, hop, hbits⟩
    rwa [hunique x hx hop] at hbits
  · exact fun hbits => ⟨r, (rowOf_eq_some_iff.1 h).1, (rowOf_eq_some_iff.1 h).2, hbits⟩

/-! ### A word with a format's must-be-zero bits 0 is packed from its fields (R71) -/

theorem packN_of_mask {c : Command} {op : BitVec 8} (h : c.cw &&& Format.n.mask = op.setWidth 32 <<< 24) :
    packN op = c.cw := by
  rw [packN, place, ← h]
  simp only [Format.mask]
  ext i hi
  interval_cases i <;> simp

theorem packS_of_mask {c : Command} {op : BitVec 8} (h : c.cw &&& Format.s.mask = op.setWidth 32 <<< 24) :
    packS op c.slotField = c.cw := by
  rw [packS, Command.slotField, SlotId.bits_ofBits, place, ← h]
  simp only [place, Format.mask]
  ext i hi
  interval_cases i <;> simp

theorem packP_of_mask {c : Command} {op : BitVec 8} (h : c.cw &&& Format.p.mask = op.setWidth 32 <<< 24) :
    packP op c.slotField c.speedField c.extField = c.cw := by
  rw [packP, Command.slotField, SlotId.bits_ofBits, place, ← h]
  simp only [place, Format.mask, Command.speedField, Command.extField]
  ext i hi
  interval_cases i <;> simp

theorem packA_of_mask {c : Command} {op : BitVec 8} (h : c.cw &&& Format.a.mask = op.setWidth 32 <<< 24) :
    packA op c.slotField c.byteField = c.cw := by
  rw [packA, Command.slotField, SlotId.bits_ofBits, place, ← h]
  simp only [place, Format.mask, Command.byteField]
  ext i hi
  interval_cases i <;> simp

theorem packO_of_mask {c : Command} {op : BitVec 8} (h : c.cw &&& Format.o.mask = op.setWidth 32 <<< 24) :
    packO op c.slotField c.offField = c.cw := by
  rw [packO, Command.slotField, SlotId.bits_ofBits, place, ← h]
  simp only [place, Format.mask, Command.offField]
  ext i hi
  interval_cases i <;> simp

theorem packR_of_mask {c : Command} {op : BitVec 8} (h : c.cw &&& Format.r.mask = op.setWidth 32 <<< 24) :
    packR op c.slotField c.offField c.nField = c.cw := by
  rw [packR, Command.slotField, SlotId.bits_ofBits, place, ← h]
  simp only [place, Format.mask, Command.offField, Command.nField]
  ext i hi
  interval_cases i <;> simp

theorem packE_of_mask {c : Command} {op : BitVec 8} (h : c.cw &&& Format.e.mask = op.setWidth 32 <<< 24) :
    packE op c.etypeField c.estructField = c.cw := by
  rw [packE, place, ← h]
  simp only [place, Format.mask, Command.etypeField, Command.estructField]
  ext i hi
  interval_cases i <;> simp

theorem packH_of_mask {c : Command} {op : BitVec 8} (h : c.cw &&& Format.h.mask = op.setWidth 32 <<< 24) :
    packH op c.histField c.idxField = c.cw := by
  rw [packH, place, ← h]
  simp only [place, Format.mask, Command.histField, Command.idxField]
  ext i hi
  interval_cases i <;> simp

theorem packK_of_mask {c : Command} {op : BitVec 8} (h : c.cw &&& Format.k.mask = op.setWidth 32 <<< 24) :
    packK op c.cntField = c.cw := by
  rw [packK, place, ← h]
  simp only [place, Format.mask, Command.cntField]
  ext i hi
  interval_cases i <;> simp

theorem packD_of_mask {c : Command} {op : BitVec 8} (h : c.cw &&& Format.d.mask = op.setWidth 32 <<< 24) :
    packD op c.devField = c.cw := by
  rw [packD, place, ← h]
  simp only [place, Format.mask, Command.devField]
  ext i hi
  interval_cases i <;> simp

/-! ### The write data a command reads (R73) -/

theorem Command.timeData_eq (c : Command) {op : Nat} (h : op = 0x11 ∨ op = 0x50) :
    c.timeData = c.wdata &&& wdataRead op := by
  rw [wdataRead, if_pos h]
  exact BitVec.and_allOnes.symm

theorem Command.setWidth_cellData (c : Command) : c.cellData.setWidth 64 = c.wdata &&& wdataRead 0x71 := by
  simp only [Command.cellData, wdataRead]
  ext i hi
  interval_cases i <;> simp

theorem Command.setWidth_countData (c : Command) : c.countData.setWidth 64 = c.wdata &&& wdataRead 0x74 := by
  simp only [Command.countData, wdataRead]
  ext i hi
  interval_cases i <;> simp

theorem Command.packEntry_seenData_countData (c : Command) :
    packEntry c.seenData c.countData = c.wdata &&& wdataRead 0x76 := by
  simp only [packEntry, Command.seenData, Command.countData, wdataRead]
  ext i hi
  interval_cases i <;> simp

theorem wdataRead_of_not_mem {op : Nat} (h : op ∉ [0x11, 0x50, 0x71, 0x74, 0x76]) : wdataRead op = 0#64 := by
  simp only [List.mem_cons, List.not_mem_nil, or_false, not_or] at h
  obtain ⟨h11, h50, h71, h74, h76⟩ := h
  simp [wdataRead, h11, h50, h71, h74, h76]

/-! ### Reserved enumerants (R75) -/

theorem reservedEnum_of_not_mem {cw : Word} (h : fld cw 31 24 ∉ [0x11, 0x50, 0x70, 0x71]) :
    reservedEnum cw = false := by
  simp only [List.mem_cons, List.not_mem_nil, or_false, not_or] at h
  obtain ⟨h11, h50, h70, h71⟩ := h
  simp [reservedEnum, h11, h50, h70, h71]

theorem Command.toNat_speedField (c : Command) : c.speedField.toNat = fld c.cw 21 19 := by
  simp [Command.speedField, fld, bits, Nat.shiftRight_eq_div_pow]

theorem Command.toNat_etypeField (c : Command) : c.etypeField.toNat = fld c.cw 23 20 := by
  simp [Command.etypeField, fld, bits, Nat.shiftRight_eq_div_pow]

theorem Command.toNat_histField (c : Command) : c.histField.toNat = fld c.cw 23 22 := by
  simp [Command.histField, fld, bits, Nat.shiftRight_eq_div_pow]

theorem Command.speedCodeLegal_speedField {c : Command} (h : c.op = 0x11#8) :
    speedCodeLegal c.speedField = !reservedEnum c.cw := by
  have hop : fld c.cw 31 24 = 0x11 := by rw [← c.toNat_op, h]; rfl
  simp [speedCodeLegal, reservedEnum, hop, c.toNat_speedField, ← decide_not]

theorem Command.etypeCodeLegal_etypeField {c : Command} (h : c.op = 0x50#8) :
    etypeCodeLegal c.etypeField = !reservedEnum c.cw := by
  have hop : fld c.cw 31 24 = 0x50 := by rw [← c.toNat_op, h]; rfl
  simp [etypeCodeLegal, reservedEnum, hop, c.toNat_etypeField, ← decide_not]

theorem Command.histCodeLegal_histField {c : Command} (h : c.op = 0x70#8 ∨ c.op = 0x71#8) :
    histCodeLegal c.histField = !reservedEnum c.cw := by
  have hop : fld c.cw 31 24 = 0x70 ∨ fld c.cw 31 24 = 0x71 := by
    rw [← c.toNat_op]
    exact h.imp (congrArg BitVec.toNat) (congrArg BitVec.toNat)
  have hle : c.histField.toNat < 4 := c.histField.isLt
  rw [c.toNat_histField] at hle
  rw [histCodeLegal, c.toNat_histField, Bool.eq_iff_iff]
  rcases hop with hop | hop <;> simp [reservedEnum, hop] <;> omega

/-! ### Every row of the opcode map is faithful -/

/-- What a row reads from a word is the command the word spells: encoding it gives back the word and the write data R73
lists, and it is well formed exactly when the word holds no reserved enumerant. -/
structure OpRow.Faithful (r : OpRow) : Prop where
  cw_encode : ∀ c, c.cw &&& r.fmt.mask = r.op.setWidth 32 <<< 24 → (encode (r.read c)).cw = c.cw
  wdata_encode : ∀ c, (encode (r.read c)).wdata = c.wdata &&& wdataRead r.op.toNat
  wellFormed_read : ∀ c, r.op = c.op → (r.read c).wellFormed = !reservedEnum c.cw

theorem OpRow.wellFormed_read_of_no_enum {r : OpRow} (hop : r.op.toNat ∉ [0x11, 0x50, 0x70, 0x71])
    (hwf : ∀ c, (r.read c).wellFormed = true) (c : Command) (hc : r.op = c.op) :
    (r.read c).wellFormed = !reservedEnum c.cw := by
  rw [hc, c.toNat_op] at hop
  rw [hwf, reservedEnum_of_not_mem hop, Bool.not_false]

/-- A row whose command reads no write data and has no enumerated field. -/
theorem OpRow.Faithful.of_plain {r : OpRow} (hop : r.op.toNat ∉ [0x11, 0x50, 0x70, 0x71, 0x74, 0x76])
    (hwf : ∀ c, (r.read c).wellFormed = true) (hdata : ∀ c, (encode (r.read c)).wdata = 0#64)
    (hcw : ∀ c, c.cw &&& r.fmt.mask = r.op.setWidth 32 <<< 24 → (encode (r.read c)).cw = c.cw) : r.Faithful := by
  simp only [List.mem_cons, List.not_mem_nil, or_false, not_or] at hop
  obtain ⟨h11, h50, h70, h71, h74, h76⟩ := hop
  refine ⟨hcw, fun c => ?_, OpRow.wellFormed_read_of_no_enum (by simp [*]) hwf⟩
  rw [hdata, wdataRead_of_not_mem (by simp [*]), BitVec.and_zero]

theorem faithful_nopRows : ∀ r ∈ nopRows, r.Faithful := by
  simp only [nopRows, List.forall_mem_singleton]
  exact .of_plain (by decide) (fun _ => rfl) (fun _ => rfl) fun _ => packN_of_mask

theorem faithful_packetLoadRows : ∀ r ∈ packetLoadRows, r.Faithful := by
  simp only [packetLoadRows, List.forall_mem_cons]
  refine ⟨?_, ?pktSet, ?pktApp, ?pktRb, ?_, ?_, ?_, List.forall_mem_nil _⟩
  case pktSet =>
    exact ⟨fun _ => packP_of_mask, fun c => c.timeData_eq (.inl rfl),
      fun _ hc => Command.speedCodeLegal_speedField hc.symm⟩
  case pktApp => exact .of_plain (by decide) (fun _ => rfl) (fun _ => rfl) fun _ => packA_of_mask
  case pktRb => exact .of_plain (by decide) (fun _ => rfl) (fun _ => rfl) fun _ => packO_of_mask
  all_goals exact .of_plain (by decide) (fun _ => rfl) (fun _ => rfl) fun _ => packS_of_mask

theorem faithful_packetFieldRows : ∀ r ∈ packetFieldRows, r.Faithful := by
  simp only [packetFieldRows, List.forall_mem_cons]
  refine ⟨?_, ?_, ?_, ?_, ?_, ?_, ?_, ?_, ?_, ?_, ?_, ?_, ?_, ?_, ?_, ?_, List.forall_mem_nil _⟩
  all_goals exact .of_plain (by decide) (fun _ => rfl) (fun _ => rfl) fun _ => packS_of_mask

theorem faithful_packetCheckRows : ∀ r ∈ packetCheckRows, r.Faithful := by
  simp only [packetCheckRows, List.forall_mem_cons]
  refine ⟨?_, ?_, ?_, List.forall_mem_nil _⟩
  all_goals exact .of_plain (by decide) (fun _ => rfl) (fun _ => rfl) fun _ => packS_of_mask

theorem faithful_crcRows : ∀ r ∈ crcRows, r.Faithful := by
  simp only [crcRows, List.forall_mem_cons]
  refine ⟨?_, ?_, List.forall_mem_nil _⟩
  all_goals exact .of_plain (by decide) (fun _ => rfl) (fun _ => rfl) fun _ => packR_of_mask

theorem faithful_elementRows : ∀ r ∈ elementRows, r.Faithful := by
  simp only [elementRows, List.forall_mem_cons]
  refine ⟨?elmSet, ?_, ?_, ?_, ?_, ?_, ?_, ?_, ?_, List.forall_mem_nil _⟩
  case elmSet =>
    exact ⟨fun _ => packE_of_mask, fun c => c.timeData_eq (.inr rfl),
      fun _ hc => Command.etypeCodeLegal_etypeField hc.symm⟩
  all_goals exact .of_plain (by decide) (fun _ => rfl) (fun _ => rfl) fun _ => packN_of_mask

theorem faithful_sessionRows : ∀ r ∈ sessionRows, r.Faithful := by
  simp only [sessionRows, List.forall_mem_cons]
  refine ⟨?_, ?_, ?_, ?_, ?_, List.forall_mem_nil _⟩
  all_goals exact .of_plain (by decide) (fun _ => rfl) (fun _ => rfl) fun _ => packN_of_mask

theorem faithful_transferRows : ∀ r ∈ transferRows, r.Faithful := by
  simp only [transferRows, List.forall_mem_cons]
  refine ⟨?histRd, ?histWr, ?_, ?cntRd, ?cntWr, ?devRd, ?devWr, ?_, ?_, ?_, List.forall_mem_nil _⟩
  case histRd =>
    exact ⟨fun _ => packH_of_mask, fun _ => BitVec.and_zero.symm,
      fun _ hc => Command.histCodeLegal_histField (.inl hc.symm)⟩
  case histWr =>
    exact ⟨fun _ => packH_of_mask, Command.setWidth_cellData,
      fun _ hc => Command.histCodeLegal_histField (.inr hc.symm)⟩
  case cntRd => exact .of_plain (by decide) (fun _ => rfl) (fun _ => rfl) fun _ => packK_of_mask
  case cntWr =>
    exact ⟨fun _ => packK_of_mask, Command.setWidth_countData, OpRow.wellFormed_read_of_no_enum (by decide) fun _ => rfl⟩
  case devRd => exact .of_plain (by decide) (fun _ => rfl) (fun _ => rfl) fun _ => packD_of_mask
  case devWr =>
    exact ⟨fun _ => packD_of_mask, Command.packEntry_seenData_countData,
      OpRow.wellFormed_read_of_no_enum (by decide) fun _ => rfl⟩
  all_goals exact .of_plain (by decide) (fun _ => rfl) (fun _ => rfl) fun _ => packN_of_mask

theorem faithful_of_rowOf {c : Command} {r : OpRow} (h : rowOf c = some r) : r.Faithful := by
  have hall : ∀ r ∈ opTable, r.Faithful := by
    simp only [opTable, List.forall_mem_append]
    exact ⟨⟨⟨⟨⟨⟨⟨faithful_nopRows, faithful_packetLoadRows⟩, faithful_packetFieldRows⟩, faithful_packetCheckRows⟩,
      faithful_crcRows⟩, faithful_elementRows⟩, faithful_sessionRows⟩, faithful_transferRows⟩
  exact hall r (rowOf_eq_some_iff.1 h).1

/-! ### Decoding a word -/

theorem decode_of_rowOf_none {c : Command} (h : rowOf c = none) : decode c = .error .illegalOp := by
  simp only [decode, h]

/-- A word with an assigned opcode decodes exactly when it has no must-be-zero bit set and no reserved enumerant (R75). -/
theorem decode_of_rowOf_some {c : Command} {r : OpRow} (h : rowOf c = some r) :
    decode c = if mbzSet c.cw || reservedEnum c.cw then .error .reserved else .ok (r.read c) := by
  have hop : r.op = c.op := (rowOf_eq_some_iff.1 h).2
  simp only [decode, h, (faithful_of_rowOf h).wellFormed_read c hop, mbzSet_eq_not_fits h]
  cases r.fits c <;> cases reservedEnum c.cw <;> rfl

/-- What a row reads from a word with no reserved field: a well-formed command that encodes to the word (R73). -/
theorem encode_read_of_not_reserved {c : Command} {r : OpRow} (h : rowOf c = some r)
    (hlegal : (mbzSet c.cw || reservedEnum c.cw) = false) :
    (r.read c).wellFormed = true ∧ encode (r.read c) = ⟨c.cw, c.wdata &&& wdataRead (fld c.cw 31 24)⟩ := by
  obtain ⟨hmbz, henum⟩ := Bool.or_eq_false_iff.1 hlegal
  have hop : r.op = c.op := (rowOf_eq_some_iff.1 h).2
  obtain ⟨hcw, hdata, hwf⟩ := faithful_of_rowOf h
  have hfits : r.fits c = true := by rw [← Bool.not_eq_false', ← mbzSet_eq_not_fits h, hmbz]
  refine ⟨by rw [hwf c hop, henum, Bool.not_false], ?_⟩
  rw [← c.toNat_op, ← hop, ← hdata, ← hcw c (eq_of_beq hfits)]

/-! ### Decoding an encoded command -/

/-- An encoded command selects a row by its opcode and fixed bits, and decodes where the row reads its operands back. -/
theorem decode_encode_of_row {i : Instr} {r : OpRow} {op : BitVec 8} (hop : (encode i).op = op)
    (hr : (opTable.find? fun r => r.op == op) = some r)
    (hm : (encode i).cw &&& r.fmt.mask = r.op.setWidth 32 <<< 24) (hread : r.read (encode i) = i)
    (hi : i.wellFormed = true) : decode (encode i) = .ok i := by
  have hrow : rowOf (encode i) = some r := by rw [rowOf, hop, hr]
  have hfits : r.fits (encode i) = true := beq_iff_eq.2 hm
  simp only [decode, hrow, hfits, hread, hi, Bool.and_self, if_true]

theorem decode_encode {i : Instr} (hi : i.wellFormed = true) : decode (encode i) = .ok i := by
  cases i with
  | nop | elmType | elmTime | elmEmpty | elmAddr | elmEndp | elmSpeed | elmErrs | elmValid | init | final | elmPush | decay
  | clear | histClr | devLast | statRd | orgRd => exact decode_encode_of_row (op_packN _ _) rfl (mask_packN _) rfl hi
  | pktClr | pktLen | pktTime | pktAttr | pktEmpty | pktPid | pktSubpid | pktType | pktAddr | pktEndp | pktFrame
  | pktHubaddr | pktHubport | pktSc | pktS | pktE | pktEt | pktCrc5 | pktCrc5c | pktCrc16 | pktCrc16c | pktErrs
  | pktValid =>
    exact decode_encode_of_row (op_packS _ _ _) rfl (mask_packS _ _) (congrArg _ (slotField_packS _ _ _)) hi
  | pktSet k speed ext time =>
    refine decode_encode_of_row (op_packP _ _ _ _ _) rfl (mask_packP _ _ _ _) ?_ hi
    simp only [encode, slotField_packP, speedField_packP, extField_packP, Command.timeData]
  | pktApp k byte =>
    refine decode_encode_of_row (op_packA _ _ _ _) rfl (mask_packA _ _ _) ?_ hi
    simp only [encode, slotField_packA, byteField_packA]
  | pktRb k off =>
    refine decode_encode_of_row (op_packO _ _ _ _) rfl (mask_packO _ _ _) ?_ hi
    simp only [encode, slotField_packO, offField_packO]
  | crc5 k off n | crc16 k off n =>
    refine decode_encode_of_row (op_packR _ _ _ _ _) rfl (mask_packR _ _ _ _) ?_ hi
    simp only [encode, slotField_packR, offField_packR, nField_packR]
  | elmSet etype estruct time =>
    refine decode_encode_of_row (op_packE _ _ _ _) rfl (mask_packE _ _ _) ?_ hi
    simp only [encode, etypeField_packE, estructField_packE, Command.timeData]
  | histRd h idx | histWr h idx v =>
    refine decode_encode_of_row (op_packH _ _ _ _) rfl (mask_packH _ _ _) ?_ hi
    simp only [encode, histField_packH, idxField_packH, cellData_setWidth]
  | cntRd c | cntWr c v =>
    refine decode_encode_of_row (op_packK _ _ _) rfl (mask_packK _ _) ?_ hi
    simp only [encode, cntField_packK, countData_setWidth]
  | devRd a | devWr a seen count =>
    refine decode_encode_of_row (op_packD _ _ _) rfl (mask_packD _ _) ?_ hi
    simp only [encode, devField_packD, seenData_packEntry, countData_packEntry]

/-- Encoding tells well-formed commands apart. -/
theorem encode_injective {i j : Instr} (hi : i.wellFormed = true) (hj : j.wellFormed = true)
    (h : encode i = encode j) : i = j := by
  have hij : (.ok i : Except CmdError Instr) = .ok j := by rw [← decode_encode hi, ← decode_encode hj, h]
  exact Except.ok.inj hij

/-- The row and the reserved fields are the command word's alone, and what the row then reads is told by its encoding, which
holds no other write data than R73 lists. -/
theorem decode_congr {cw : Word} {w v : Data} (h : w &&& wdataRead (fld cw 31 24) = v &&& wdataRead (fld cw 31 24)) :
    decode ⟨cw, w⟩ = decode ⟨cw, v⟩ := by
  cases hw : rowOf ⟨cw, w⟩ with
  | none =>
    have hv : rowOf ⟨cw, v⟩ = none := hw
    rw [decode_of_rowOf_none hw, decode_of_rowOf_none hv]
  | some r =>
    have hv : rowOf ⟨cw, v⟩ = some r := hw
    rw [decode_of_rowOf_some hw, decode_of_rowOf_some hv]
    cases hlegal : mbzSet cw || reservedEnum cw with
    | true => rfl
    | false =>
      obtain ⟨hwfw, hencw⟩ := encode_read_of_not_reserved hw hlegal
      obtain ⟨hwfv, hencv⟩ := encode_read_of_not_reserved hv hlegal
      exact congrArg Except.ok (encode_injective hwfw hwfv (by rw [hencw, hencv, h]))

end Sys2Proof

namespace Sys2Proof.Machine

open Sys2Proof.Stmt

/-- What a command word with an assigned opcode does, by its must-be-zero bits and enumerants (R75). -/
theorem step_of_rowOf {s : State} {c : Command} {rest : List HostEvent} {r : OpRow}
    (hin : s.inputs = .command c :: rest) (hrow : rowOf c = some r) :
    step s = if mbzSet c.cw || reservedEnum c.cw then .next (refuses (taken s rest) 2)
      else exec (r.read c) (taken s rest) := by
  have hdecode := decode_of_rowOf_some hrow
  split at hdecode
  case isTrue hbad => rw [if_pos hbad, step_of_decode_error hin hdecode]; rfl
  case isFalse hbad => rw [if_neg hbad, step_of_decode_ok hin hdecode]; rfl

theorem Speed.ofCode?_of_not_legal : ∀ v : BitVec 3, speedCodeLegal v = false → Speed.ofCode? v = none := by decide

theorem EType.ofCode?_of_not_legal : ∀ v : BitVec 4, etypeCodeLegal v = false → EType.ofCode? v = none := by decide

theorem HistSel.ofCode?_of_not_legal : ∀ v : BitVec 2, histCodeLegal v = false → HistSel.ofCode? v = none := by decide

/-- A term with a reserved enumerant is refused by its meaning as the decoder refuses its word (log 8). -/
theorem exec_of_not_wellFormed {i : Instr} (s : State) (hi : i.wellFormed = false) : exec i s = .next (refuses s 2) := by
  cases i with
  | pktSet k speed ext time => simp only [exec, execPktSet, Speed.ofCode?_of_not_legal speed hi]; rfl
  | elmSet etype estruct time => simp only [exec, execElmSet, EType.ofCode?_of_not_legal etype hi]; rfl
  | histRd h idx => simp only [exec, execHistRd, HistSel.ofCode?_of_not_legal h hi]; rfl
  | histWr h idx v => simp only [exec, execHistWr, HistSel.ofCode?_of_not_legal h hi]; rfl
  | _ => cases hi

/-- The `Coded` clause of a row of the opcode map. -/
theorem coded_of_row {r : OpRow} {zeroes : Word → Bool} {mk : Word → Data → Instr} (hr : r ∈ opTable)
    (hzeroes : ∀ cw : Word, zeroes cw = (cw.toNat &&& r.fmt.mask.toNat % 2 ^ 24 == 0))
    (hread : ∀ c : Command, r.read c = mk c.cw c.wdata) : Coded r.op.toNat zeroes mk := by
  intro cw wdata s rest hop hin
  have hopc : r.op = (Command.mk cw wdata).op :=
    BitVec.eq_of_toNat_eq (hop.symm.trans (Command.toNat_op ⟨cw, wdata⟩).symm)
  have hrow : rowOf ⟨cw, wdata⟩ = some r := rowOf_eq_some_iff.2 ⟨hr, hopc⟩
  have hmbz : mbzSet cw = !zeroes cw := by rw [mbzSet_eq_not_fits hrow, OpRow.fits_eq hopc, hzeroes]
  have hlegal := (faithful_of_rowOf hrow).wellFormed_read ⟨cw, wdata⟩ hopc
  rw [step_of_rowOf hin hrow, hmbz, hread]
  cases zeroes cw with
  | false => rfl
  | true =>
    cases henum : reservedEnum cw with
    | false => rfl
    | true =>
      rw [henum, hread] at hlegal
      exact (exec_of_not_wellFormed _ hlegal).symm

end Sys2Proof.Machine

namespace Sys2Proof.Proofs

open Sys2Proof.Machine Sys2Proof.Stmt

/-- Settles O1: the encoded word selects the command's row, and the row reads every operand back. -/
theorem decodeOfEncodeIsTheCommand : Obligations.DecodeOfEncodeIsTheCommand := fun _ hi => decode_encode hi

/-- Settles O2, by the row of the opcode map that the word selects. -/
theorem encodeOfDecodeIsTheWord : Obligations.EncodeOfDecodeIsTheWord := by
  intro c i hdecode
  cases hrow : rowOf c with
  | none => rw [decode_of_rowOf_none hrow] at hdecode; cases hdecode
  | some r =>
    rw [decode_of_rowOf_some hrow] at hdecode
    split at hdecode
    case isTrue => cases hdecode
    case isFalse hlegal =>
      cases hdecode
      obtain ⟨hwf, henc⟩ := encode_read_of_not_reserved hrow (Bool.eq_false_of_not_eq_true hlegal)
      exact ⟨hwf, by rw [henc], by rw [henc]⟩

/-- Settles O3: the two words decode alike, to a command or to an error. -/
theorem unreadWriteDataHasNoEffect : Obligations.UnreadWriteDataHasNoEffect := by
  intro s rest cw w v hagree
  have hdecode := decode_congr hagree
  cases hv : decode ⟨cw, v⟩ with
  | error e => rw [step_of_decode_error rfl (hdecode.trans hv), step_of_decode_error rfl hv]; rfl
  | ok i => rw [step_of_decode_ok rfl (hdecode.trans hv), step_of_decode_ok rfl hv]; rfl

/-- Settles O4: an opcode outside the statements' table selects no row. -/
theorem unassignedOpcodesAnswerIllegalOp : Obligations.UnassignedOpcodesAnswerIllegalOp := by
  refine ⟨fun s rest cw wdata hin hunassigned => ?_, length_unassigned, fun cw hop => ?_⟩
  · have hrow : rowOf ⟨cw, wdata⟩ = none := by
      rwa [← Option.not_isSome_iff_eq_none, ← assigned_eq_isSome_rowOf, Bool.not_eq_true]
    rw [step_of_decode_error hin (decode_of_rowOf_none hrow)]
    rfl
  · rw [assigned, hop]
    decide

/-- Settles O5: `decode_of_rowOf_some` on the row that the assigned opcode selects. -/
theorem reservedFieldsAnswerReserved : Obligations.ReservedFieldsAnswerReserved := by
  intro s rest cw wdata hin hassigned
  rw [assigned_eq_isSome_rowOf ⟨cw, wdata⟩] at hassigned
  obtain ⟨r, hrow⟩ := Option.isSome_iff_exists.1 hassigned
  have hdecode := decode_of_rowOf_some hrow
  have hstep := step_of_rowOf hin hrow
  split
  case isTrue hbad => rw [hstep, if_pos hbad]
  case isFalse hbad => exact ⟨r.read ⟨cw, wdata⟩, by rw [hdecode, if_neg hbad], by rw [hstep, if_neg hbad]⟩

/-- Settles O6: ten closed words, evaluated. -/
theorem handWrittenWordsDecode : Obligations.HandWrittenWordsDecode := by
  unfold Obligations.HandWrittenWordsDecode
  decide

end Sys2Proof.Proofs
end

section
/-! PROOFS. The accessors of a packet (spec/40_packet.md R110, R111, R121): the kinds of the model are those of the
statements, which packets have no field to read, and what `PKT.SUBPID` answers. -/

namespace Sys2Proof.Machine

open Sys2Proof.Stmt

/-! ### Answers in the statements' terms (R8) -/

theorem State.respond_eq_answers (s : State) {w : Nat} (v : BitVec w) : s.respond v = answers s v.toNat := by
  rw [State.respond_eq, State.answer, answers, BitVec.ofNat_toNat]

/-! ### The kinds of the statements (R90, R110) -/

/-- The PID bytes of a kind; none where no PID byte makes a packet of the kind. -/
def Kind.pids : Kind → List Byte
  | .token => [0xE1#8, 0x69#8, 0x2D#8, 0xB4#8]
  | .sof => [0xA5#8]
  | .data => [0xC3#8, 0x4B#8, 0x87#8, 0x0F#8]
  | .handshake => [0xD2#8, 0x5A#8, 0x1E#8, 0x96#8, 0x3C#8]
  | .split => [0x78#8]
  | .ext => [0xF0#8]
  | .absent | .ext2 | .invalid => []

theorem pidKind_eq_iff {k : Kind} (hk : k.pids ≠ []) {b : Byte} : pidKind b = k ↔ b ∈ k.pids := by
  constructor
  · rintro rfl
    unfold pidKind at hk ⊢
    split_ifs at hk ⊢ with htok hsof hdata hhs hsplit hext
    · exact htok
    · exact List.mem_singleton.2 hsof
    · exact hdata
    · exact hhs
    · exact List.mem_singleton.2 hsplit
    · exact List.mem_singleton.2 hext
    · exact absurd rfl hk
  · have hall : ∀ b ∈ k.pids, pidKind b = k := by cases k <;> decide
    exact hall b

/-- `pidIn` with the PID bytes of a kind is that kind. -/
theorem pidIn_pids {k : Kind} (hk : k.pids ≠ []) (p : Packet) :
    pidIn p (k.pids.map BitVec.toNat) = (p.kind == k) := by
  obtain ⟨buf, time, speed, ext⟩ := p
  cases buf with
  | nil =>
    have habsent : Kind.absent ≠ k := fun h => hk (h ▸ rfl)
    simp [pidIn, Packet.kind_of_nil, habsent]
  | cons b rest =>
    rw [Packet.kind_of_cons rfl, Bool.eq_iff_iff]
    cases ext with
    | true =>
      have hext2 : Kind.ext2 ≠ k := fun h => hk (h ▸ rfl)
      simp [pidIn, hext2]
    | false => simp [pidIn, byteAt, pidKind_eq_iff hk, BitVec.toNat_inj]

theorem isToken_eq_kind : ∀ p, isToken p = (p.kind == .token) := pidIn_pids (k := .token) (by decide)

theorem isSof_eq_kind : ∀ p, isSof p = (p.kind == .sof) := pidIn_pids (k := .sof) (by decide)

theorem isData_eq_kind : ∀ p, isData p = (p.kind == .data) := pidIn_pids (k := .data) (by decide)

theorem isHandshake_eq_kind : ∀ p, isHandshake p = (p.kind == .handshake) := pidIn_pids (k := .handshake) (by decide)

theorem isSplit_eq_kind : ∀ p, isSplit p = (p.kind == .split) := pidIn_pids (k := .split) (by decide)

theorem isExt_eq_kind : ∀ p, isExt p = (p.kind == .ext) := pidIn_pids (k := .ext) (by decide)

theorem isExt2_eq_kind (p : Packet) : isExt2 p = (p.kind == .ext2) := by
  cases hbuf : p.buf with
  | nil => simp [isExt2, hbuf, Packet.kind_of_nil]
  | cons b rest =>
    rw [Packet.kind_of_cons hbuf, isExt2, hbuf]
    cases p.ext with
    | true => rfl
    | false => simp [(pidKind_ne b).2]

theorem isInvalid_eq_kind (p : Packet) : isInvalid p = (p.kind == .invalid) := by
  have hbuf : (p.buf != []) = !(p.kind == .absent) := by
    rw [Bool.eq_iff_iff]
    simp [p.kind_eq_absent_iff]
  rw [isInvalid, hbuf, isToken_eq_kind, isSof_eq_kind, isData_eq_kind, isHandshake_eq_kind, isSplit_eq_kind,
    isExt_eq_kind, isExt2_eq_kind]
  cases p.kind <;> rfl

/-! ### Packets too short for their fields (R97, R111) -/

theorem Packet.minLength_of_minlen {p : Packet} {m : Nat} (h : p.kind.minlen = some m) : minLength p = m := by
  rw [minLength, isHandshake_eq_kind, isSplit_eq_kind]
  cases hk : p.kind <;> rw [hk] at h <;> cases h <;> rfl

/-- No kind has its fields in a packet below the minimum length, or in one of invalid kind. -/
theorem Packet.has_of_short {p : Packet} (h : p.buf.length < minLength p ∨ isInvalid p = true) (ks : List Kind) :
    ¬p.has ks = true := by
  rw [p.has_iff]
  rintro ⟨-, m, hm, hle⟩
  rcases h with hshort | hinvalid
  · rw [Packet.minLength_of_minlen hm] at hshort
    exact absurd hle (Nat.not_le.2 hshort)
  · rw [isInvalid_eq_kind, beq_iff_eq] at hinvalid
    rw [hinvalid] at hm
    cases hm

/-- A command that answers an accessor's value answers unknown where the accessor has none. -/
theorem next_respondOption_none {s : State} {w : Nat} {v : Option (BitVec w)} (h : v = none) :
    (Host.Outcome.next (s.respondOption v) : Host.Outcome State Fault Refusal) = .next (unknown s) := by
  rw [h]
  rfl

/-! ### The commands with a slot as their only operand (R71) -/

theorem slotField_eq_slotOf (c : Command) : c.slotField = slotOf c.cw := by
  have hbits : fld c.cw 23 22 = (c.cw.extractLsb' 22 2).toNat := by
    simp [fld, bits, Nat.shiftRight_eq_div_pow]
  rw [Command.slotField, slotOf, hbits]
  generalize c.cw.extractLsb' 22 2 = b
  revert b
  decide

theorem fmtS_eq (cw : Word) : fmtS cw = (cw.toNat &&& Format.s.mask.toNat % 2 ^ 24 == 0) := by
  have hmask : Format.s.mask.toNat % 2 ^ 24 = 2 ^ 22 - 1 := rfl
  rw [hmask, Nat.and_two_pow_sub_one_eq_mod]
  simp [fmtS, fld, bits]

/-- The `Coded` clause of a row of format S. -/
theorem coded_of_slot_row {m : String} {op : BitVec 8} {f : SlotId → Instr}
    (hr : ⟨m, op, .s, fun c => f c.slotField⟩ ∈ opTable) : Coded op.toNat fmtS fun cw _ => f (slotOf cw) :=
  coded_of_row hr fmtS_eq fun c => congrArg f (slotField_eq_slotOf c)

/-! ### The sub-PID (R121) -/

theorem exec_pktSubpid (k : SlotId) (s : State) :
    exec (.pktSubpid k) s = .next (answersIf s ((s.slot k).ext && (s.slot k).buf != []) (byteAt (s.slot k) 0)) := by
  simp only [exec, execPktSubpid, Packet.subpid]
  cases (s.slot k).ext with
  | false => rfl
  | true =>
    cases hbuf : (s.slot k).buf with
    | nil => rfl
    | cons b rest => simpa [answersIf, byteAt, hbuf] using s.respond_eq_answers b

end Sys2Proof.Machine

namespace Sys2Proof.Proofs

open Sys2Proof.Machine Sys2Proof.Stmt

/-- Settles O30: each of the accessors asks `has` for its kinds first. -/
theorem shortPacketsAnswerUnknown : Obligations.ShortPacketsAnswerUnknown := by
  intro k s hshort
  have hhas := Packet.has_of_short hshort
  simp only [List.forall_mem_cons]
  refine ⟨?_, ?_, ?_, ?_, ?_, ?_, ?_, ?_, ?_, ?crc5, ?crc5c, ?_, ?_, List.forall_mem_nil _⟩
  case crc5 | crc5c => exact next_respondOption_none ((if_neg (hhas _)).trans (if_neg (hhas _)))
  all_goals exact next_respondOption_none (if_neg (hhas _))

/-- Settles O59: the row of opcode 0x22, and R121's formula. -/
theorem packetSubPid : Obligations.PacketSubPid :=
  ⟨coded_of_slot_row (m := "PKT.SUBPID") (op := 0x22#8) (f := .pktSubpid) (by simp [opTable, packetFieldRows]),
    exec_pktSubpid⟩

end Sys2Proof.Proofs
end

section
/-! PROOFS. The pseudo-commands (spec/30_encoding.md R80, spec/45_state_transfer.md R241): what a list of commands leaves,
for the expansions that append bytes, write a bank of cells in order, or read one. -/

namespace Sys2Proof.Machine

open Sys2Proof.Stmt

/-! ### Running a list of commands -/

theorem execAll_cons {i : Instr} {is : List Instr} {s t : State} (h : exec i s = .next t) :
    execAll (i :: is) s = execAll is t := by
  rw [execAll, h]

/-- `s` with more answers given. -/
def State.answerAll (s : State) (rs : List Response) : State := { s with responses := s.responses ++ rs }

theorem State.answerAll_nil (s : State) : s.answerAll [] = s := by
  rw [State.answerAll, List.append_nil]

theorem State.answerAll_answer (s : State) (r : Response) (rs : List Response) :
    (s.answer r).answerAll rs = s.answerAll (r :: rs) := by
  simp only [State.answerAll, State.answer, List.append_assoc, List.singleton_append]

theorem State.setSlot_answerAll (s : State) (rs : List Response) (k : SlotId) (p : Packet) :
    (s.answerAll rs).setSlot k p = (s.setSlot k p).answerAll rs := by cases k <;> rfl

theorem State.setSlot_eq_withSlot (s : State) (k : SlotId) (p : Packet) : s.setSlot k p = withSlot s k p := by
  cases k <;> rfl

/-! ### `PKT.LOAD` (R113, R114) -/

theorem Speed.ofCode?_of_toNat {v : BitVec 3} {sp : Speed} (h : v.toNat = speedCode sp) : Speed.ofCode? v = some sp := by
  unfold Speed.ofCode?
  rw [h]
  cases sp <;> rfl

theorem exec_pktApp_setSlot {k : SlotId} {b : Byte} {s : State} {p : Packet} (h : p.buf.length < 2047) :
    exec (.pktApp k b) (s.setSlot k p) = .next (s.setSlot k { p with buf := p.buf ++ [b] }).ack := by
  have hlen : ¬((s.setSlot k p).slot k).len = Config.pktMax := by
    rw [State.slot_setSlot_same]
    exact Nat.ne_of_lt h
  rw [exec, execPktApp, if_neg hlen, State.slot_setSlot_same, State.setSlot_setSlot]

/-- Bytes that fit are put behind those of the packet, one answer each. -/
theorem execAll_pktApp {k : SlotId} (bytes : List Byte) {s : State} {p : Packet}
    (h : p.buf.length + bytes.length ≤ 2047) :
    execAll (bytes.map fun b => .pktApp k b) (s.setSlot k p) =
      .next ((s.setSlot k { p with buf := p.buf ++ bytes }).answerAll
        (List.replicate bytes.length ⟨0#64, false, 0#3, false⟩)) := by
  induction bytes generalizing s p with
  | nil => simp [execAll, State.answerAll_nil]
  | cons b bytes ih =>
    simp only [List.length_cons] at h
    rw [List.map_cons, execAll_cons (exec_pktApp_setSlot (by omega)), State.ack_eq, ← State.setSlot_answer,
      ih (by simp; omega)]
    simp [State.answerAll_answer, List.replicate_succ]

/-! ### A bank of cells that is written and read cell by cell (R240, R241) -/

/-- `n` cells in the state: command `wr i v` writes cell `i` and no other, `rd i` answers it as `resp` says, and answers do
not reach the cells. `inv` is what the cells need of the state. -/
structure Bank {α : Type} (n : Nat) (inv : State → Prop) (cell : State → Nat → α) (wr : Nat → α → Instr)
    (rd : Nat → Instr) (resp : α → Response) : Prop where
  write : ∀ {s : State} {i : Nat} (v : α), inv s → i < n →
    ∃ t, exec (wr i v) s = .next t ∧ inv t ∧ ∀ j < n, cell t j = if i = j then v else cell s j
  read : ∀ (s : State) {i : Nat}, i < n → exec (rd i) s = .next (s.answer (resp (cell s i)))
  cell_answer : ∀ (s : State) (r : Response), cell (s.answer r) = cell s

section
variable {α : Type} {n : Nat} {inv : State → Prop} {cell : State → Nat → α} {wr : Nat → α → Instr} {rd : Nat → Instr}
  {resp : α → Response}

/-- The values are written from cell `off` up; the cells below stay. -/
theorem Bank.writeAll (hb : Bank n inv cell wr rd resp) (vs : List α) {off : Nat} {s : State} (hs : inv s)
    (hlen : off + vs.length ≤ n) : ∃ t, execAll ((vs.zipIdx off).map fun x => wr x.2 x.1) s = .next t ∧
      ∀ j < n, cell t j = if j < off then cell s j else vs[j - off]?.getD (cell s j) := by
  induction vs generalizing off s with
  | nil => exact ⟨s, rfl, by simp⟩
  | cons v vs ih =>
    simp only [List.length_cons] at hlen
    obtain ⟨u, hu, hinv, hcell⟩ := hb.write v hs (show off < n by omega)
    obtain ⟨t, ht, hread⟩ := ih (off := off + 1) hinv (by omega)
    refine ⟨t, by rw [List.zipIdx_cons, List.map_cons, execAll_cons hu, ht], fun j hj => ?_⟩
    rw [hread j hj, hcell j hj]
    rcases Nat.lt_trichotomy j off with hlt | rfl | hgt
    · simp [hlt, hlt.ne', Nat.lt_succ_of_lt hlt]
    · simp
    · obtain ⟨d, rfl⟩ := Nat.exists_eq_add_of_lt hgt
      simp [show ¬off + d + 1 < off + 1 by omega, show ¬off + d + 1 < off by omega,
        show off + d + 1 - off = d + 1 by omega, show off + d + 1 - (off + 1) = d by omega, hgt.ne]

theorem Bank.readAll (hb : Bank n inv cell wr rd resp) (is : List Nat) {s : State} (his : ∀ i ∈ is, i < n) :
    execAll (is.map rd) s = .next (s.answerAll (is.map fun i => resp (cell s i))) := by
  induction is generalizing s with
  | nil => rw [List.map_nil, List.map_nil, State.answerAll_nil, execAll]
  | cons i is ih =>
    obtain ⟨hi, his⟩ := List.forall_mem_cons.1 his
    rw [List.map_cons, execAll_cons (hb.read s hi), ih his, hb.cell_answer, State.answerAll_answer, List.map_cons]

/-- R241: the values written to the whole bank are those read back. -/
theorem Bank.readAll_after_writeAll (hb : Bank n inv cell wr rd resp) {s : State} (hs : inv s) (vs : List α)
    (hlen : vs.length = n) : ∃ t u, execAll (vs.zipIdx.map fun x => wr x.2 x.1) s = .next t ∧
      execAll ((List.range n).map rd) t = .next u ∧ u.responses = t.responses ++ vs.map resp := by
  obtain ⟨t, ht, hcell⟩ := hb.writeAll vs hs (off := 0) (by omega)
  refine ⟨t, _, ht, hb.readAll (List.range n) fun i hi => List.mem_range.1 hi, ?_⟩
  have hvalues : ((List.range n).map fun i => resp (cell t i)) = vs.map resp := by
    refine List.ext_getElem (by simp [hlen]) fun i hi hi' => ?_
    rw [List.length_map, List.length_range] at hi
    rw [List.length_map] at hi'
    simp [hcell i hi, hi']
  rw [State.answerAll, hvalues]

end

/-! ### The three banks -/

theorem ofNat_inj_of_lt {w i j : Nat} (hi : i < 2 ^ w) (hj : j < 2 ^ w) :
    BitVec.ofNat w i = BitVec.ofNat w j ↔ i = j := by
  rw [← BitVec.toNat_inj, BitVec.toNat_ofNat, BitVec.toNat_ofNat, Nat.mod_eq_of_lt hi, Nat.mod_eq_of_lt hj]

/-- The data of `DEV.RD`: the seen flag at bit 32 above the count (R235). -/
theorem toNat_ofBool_append (b : Bool) (v : Word) :
    (BitVec.ofBool b ++ v).toNat = (if b then 2 ^ 32 else 0) + v.toNat := by
  rw [BitVec.toNat_append, ← Nat.shiftLeft_add_eq_or_of_lt v.isLt]
  cases b <;> rfl

theorem HistSel.isSome_ofCode? : ∀ x : BitVec 2, x ≠ 3#2 → (HistSel.ofCode? x).isSome = true := by decide

theorem exec_histWr {x : BitVec 2} {sel : HistSel} (hsel : HistSel.ofCode? x = some sel) {idx : BitVec 16}
    (hidx : idx.toNat < 7500) (v : Byte) (s : State) :
    exec (.histWr x idx v) s = .next (s.setHist sel ((s.hist sel).write idx.toNat v)).ack := by
  simp only [exec, execHistWr, hsel, if_neg (show ¬Config.histLen ≤ idx.toNat from Nat.not_le.2 hidx)]

theorem exec_histRd {x : BitVec 2} {sel : HistSel} (hsel : HistSel.ofCode? x = some sel) {idx : BitVec 16}
    (hidx : idx.toNat < 7500) (s : State) :
    exec (.histRd x idx) s = .next (answers s ((s.hist sel).read idx.toNat).toNat) := by
  simp only [exec, execHistRd, hsel, if_neg (show ¬Config.histLen ≤ idx.toNat from Nat.not_le.2 hidx),
    State.respond_eq_answers]

theorem bank_hist {x : BitVec 2} {sel : HistSel} (hsel : HistSel.ofCode? x = some sel) :
    Bank 7500 Canonical (fun s j => (s.hist sel).read j) (fun i v => .histWr x (BitVec.ofNat 16 i) v)
      (fun i => .histRd x (BitVec.ofNat 16 i)) fun v => ⟨BitVec.ofNat 64 v.toNat, false, 0#3, false⟩ where
  write {s i} v hs hi := by
    have hidx : (BitVec.ofNat 16 i).toNat = i := by rw [BitVec.toNat_ofNat]; omega
    refine ⟨_, exec_histWr hsel (by rwa [hidx]) v s, fun h => ?_, fun j _ => ?_⟩
    · rw [State.ack_eq, State.hist_answer]
      exact State.forall_hist_setHist hs sel (Memory.wf_write (hs sel) _ v) h
    · rw [State.ack_eq, State.hist_answer, State.hist_setHist_same, Memory.read_write (hs sel), hidx]
  read s {i} hi := by
    have hidx : (BitVec.ofNat 16 i).toNat = i := by rw [BitVec.toNat_ofNat]; omega
    rw [exec_histRd hsel (by rwa [hidx]), hidx]
    rfl
  cell_answer s r := by simp only [State.hist_answer]

theorem bank_cnt : Bank 8 (fun _ => True) (fun s j => s.cntAt (BitVec.ofNat 3 j))
    (fun i v => .cntWr (BitVec.ofNat 3 i) v) (fun i => .cntRd (BitVec.ofNat 3 i))
    fun v => ⟨BitVec.ofNat 64 v.toNat, false, 0#3, false⟩ where
  write {s i} v _ hi := by
    refine ⟨_, rfl, trivial, fun j hj => ?_⟩
    exact (State.cntAt_setCnt s _ _ v).trans (by simp only [ofNat_inj_of_lt (w := 3) hi hj])
  read s {i} _ := congrArg Host.Outcome.next (s.respond_eq_answers _)
  cell_answer _ _ := rfl

theorem bank_dev : Bank 128 (fun _ => True)
    (fun s j => (s.devseenAt (BitVec.ofNat 7 j), s.devcntAt (BitVec.ofNat 7 j)))
    (fun i e => .devWr (BitVec.ofNat 7 i) e.1 e.2) (fun i => .devRd (BitVec.ofNat 7 i))
    fun e => ⟨BitVec.ofNat 64 ((if e.1 then 2 ^ 32 else 0) + e.2.toNat), false, 0#3, false⟩ where
  write {s i} v _ hi := by
    refine ⟨_, rfl, trivial, fun j hj => ?_⟩
    refine (congrArg₂ Prod.mk (State.devseenAt_setDev s _ _ v.1 v.2) (State.devcntAt_setDev s _ _ v.1 v.2)).trans ?_
    simp only [ofNat_inj_of_lt (w := 7) hi hj]
    split <;> rfl
  read s {i} _ := by
    refine (congrArg Host.Outcome.next (s.respond_eq_answers _)).trans ?_
    rw [toNat_ofBool_append]
    rfl
  cell_answer _ _ := rfl

end Sys2Proof.Machine

namespace Sys2Proof.Proofs

open Sys2Proof.Machine Sys2Proof.Stmt

/-- Settles O57: `PKT.SET` empties the slot, and the bytes are appended to it by induction. -/
theorem packetLoadBuildsThePacket : Obligations.PacketLoadBuildsThePacket := by
  intro k v sp x w bytes s hv hlen
  have hset : exec (.pktSet k v x w) s = .next ((s.ack).setSlot k ⟨[], w, sp, x⟩) := by
    simp only [exec, execPktSet, Speed.ofCode?_of_toNat hv, State.ack_eq, State.setSlot_answer]
  rw [pktLoad, execAll_cons hset, execAll_pktApp bytes (by simpa using hlen), ← State.setSlot_answerAll, State.ack_eq,
    State.answerAll_answer, ← List.replicate_succ, State.setSlot_eq_withSlot]
  rfl

/-- Settles O58: the histogram a legal select names, the counters and the device table are banks. -/
theorem bulkWriteThenBulkRead : Obligations.BulkWriteThenBulkRead := by
  intro s hs
  refine ⟨fun x vs hx hlen => ?_, fun vs hlen => bank_cnt.readAll_after_writeAll trivial vs hlen,
    fun es hlen => bank_dev.readAll_after_writeAll trivial es hlen⟩
  obtain ⟨sel, hsel⟩ := Option.isSome_iff_exists.1 (HistSel.isSome_ofCode? x hx)
  exact (bank_hist hsel).readAll_after_writeAll hs vs hlen

end Sys2Proof.Proofs
end

section
/-! PROOFS. Loading a packet slot and reading it back (spec/40_packet.md R112 to R122): the encodings of formats P, A
and O, answers that may be unknown, and the commands that answer a slot's bytes, attributes, emptiness and type. -/

namespace Sys2Proof.Machine

open Sys2Proof.Stmt

/-! ### Opcodes, must-be-zero bits and fields of a command word (R70, R71) -/

/-- The `Coded` clause of the row an opcode finds in the opcode map. -/
theorem coded_of_opcode {op : Nat} {m : String} {f : Format} {read : Command → Instr} {zeroes : Word → Bool}
    {mk : Word → Data → Instr}
    (hrow : (opTable.find? fun r => r.op == BitVec.ofNat 8 op) = some ⟨m, BitVec.ofNat 8 op, f, read⟩)
    (hzeroes : ∀ cw : Word, zeroes cw = (cw.toNat &&& f.mask.toNat % 2 ^ 24 == 0))
    (hread : ∀ c : Command, read c = mk c.cw c.wdata) : Coded op zeroes mk := by
  intro cw wdata s rest hop hin
  have hlt : op < 2 ^ 8 := hop ▸ Nat.mod_lt _ (by decide)
  have hcoded := coded_of_row (List.mem_of_find?_eq_some hrow) hzeroes hread
  rw [BitVec.toNat_ofNat, Nat.mod_eq_of_lt hlt] at hcoded
  exact hcoded cw wdata s rest hop hin

theorem coded_of_slot_opcode {op : Nat} {m : String} {f : SlotId → Instr}
    (hrow : (opTable.find? fun r => r.op == BitVec.ofNat 8 op) =
      some ⟨m, BitVec.ofNat 8 op, .s, fun c => f c.slotField⟩) : Coded op fmtS fun cw _ => f (slotOf cw) :=
  coded_of_opcode hrow fmtS_eq fun c => congrArg f (slotField_eq_slotOf c)

/-- A slice is 0 exactly when no bit of its mask is set. -/
theorem fld_eq_zero_eq (cw : Word) (hi lo : Nat) :
    (fld cw hi lo == 0) = (cw.toNat &&& (2 ^ (hi + 1 - lo) - 1) <<< lo == 0) := by
  have hslice : cw.toNat &&& (2 ^ (hi + 1 - lo) - 1) <<< lo = fld cw hi lo <<< lo := by
    refine Nat.eq_of_testBit_eq fun i => ?_
    by_cases h : lo ≤ i
    · simp [fld, bits, Nat.testBit_shiftLeft, Nat.testBit_mod_two_pow, Nat.testBit_div_two_pow, h, Bool.and_comm]
    · simp [Nat.testBit_shiftLeft, h]
  rw [hslice, Bool.eq_iff_iff, beq_iff_eq, beq_iff_eq, Nat.shiftLeft_eq_zero_iff]

theorem fmtP_eq (cw : Word) : fmtP cw = (cw.toNat &&& Format.p.mask.toNat % 2 ^ 24 == 0) := fld_eq_zero_eq cw 17 0

theorem fmtA_eq (cw : Word) : fmtA cw = (cw.toNat &&& Format.a.mask.toNat % 2 ^ 24 == 0) := fld_eq_zero_eq cw 21 8

theorem fmtO_eq (cw : Word) : fmtO cw = (cw.toNat &&& Format.o.mask.toNat % 2 ^ 24 == 0) := fld_eq_zero_eq cw 10 0

theorem extractLsb'_eq_ofNat_fld (cw : Word) (lo w : Nat) :
    cw.extractLsb' lo (w + 1) = BitVec.ofNat (w + 1) (fld cw (lo + w) lo) := by
  refine BitVec.eq_of_toNat_eq ?_
  rw [BitVec.extractLsb'_toNat, BitVec.toNat_ofNat, fld, bits, Nat.shiftRight_eq_div_pow,
    show lo + w + 1 - lo = w + 1 by omega, Nat.mod_mod]

theorem extField_eq_fld (c : Command) : c.extField = (fld c.cw 18 18 == 1) := by
  rw [Command.extField, ← BitVec.testBit_toNat, Nat.testBit_eq_decide_div_mod_eq]
  rfl

/-! ### Answers that may be unknown (R8) -/

/-- The command answers the value that `o` holds as a number, and unknown where it holds none. -/
theorem State.respondOption_eq_answersIf (s : State) {w v : Nat} {known : Bool} {o : Option (BitVec w)}
    (h : o.map BitVec.toNat = if known then some v else none) : s.respondOption o = answersIf s known v := by
  cases known with
  | false =>
    obtain rfl : o = none := Option.map_eq_none_iff.1 h
    rfl
  | true =>
    obtain ⟨x, rfl, rfl⟩ := Option.map_eq_some_iff.1 h
    exact s.respond_eq_answers x

theorem Packet.map_toNat_getElem?_buf (p : Packet) (i : Nat) :
    p.buf[i]?.map BitVec.toNat = if decide (i < p.buf.length) then some (byteAt p i) else none := by
  by_cases h : i < p.buf.length <;> simp [byteAt, h]

/-! ### Loading a slot and reading it back (R112 to R118) -/

theorem withSlot_answers (s : State) (k : SlotId) (p : Packet) : withSlot (answers s 0) k p = (s.setSlot k p).ack := by
  cases k <;> rfl

theorem exec_pktSet_speedCode (k : SlotId) (sp : Speed) (x : Bool) (w : Time) (s : State) :
    exec (.pktSet k (BitVec.ofNat 3 (speedCode sp)) x w) s = .next (withSlot (answers s 0) k ⟨[], w, sp, x⟩) := by
  have hcode : (BitVec.ofNat 3 (speedCode sp)).toNat = speedCode sp := by cases sp <;> rfl
  simp only [exec, execPktSet, Speed.ofCode?_of_toNat hcode, withSlot_answers]

theorem exec_pktApp_of_full {k : SlotId} {s : State} (h : (s.slot k).buf.length = 2047) (b : Byte) :
    exec (.pktApp k b) s = .next (refuses s 3) := if_pos h

theorem exec_pktApp_of_not_full {k : SlotId} {s : State} (h : (s.slot k).buf.length ≠ 2047) (b : Byte) :
    exec (.pktApp k b) s =
      .next (withSlot (answers s 0) k ⟨(s.slot k).buf ++ [b], (s.slot k).time, (s.slot k).speed, (s.slot k).ext⟩) := by
  rw [withSlot_answers]
  exact if_neg h

theorem exec_pktRb (k : SlotId) (off : BitVec 11) (s : State) : exec (.pktRb k off) s =
    .next (answersIf s (decide (off.toNat < (s.slot k).buf.length)) (byteAt (s.slot k) off.toNat)) :=
  congrArg _ (s.respondOption_eq_answersIf ((s.slot k).map_toNat_getElem?_buf off.toNat))

theorem exec_pktLen {k : SlotId} {s : State} (h : (s.slot k).buf.length ≤ 2047) :
    exec (.pktLen k) s = .next (answers s (s.slot k).buf.length) := by
  have hlen : (BitVec.ofNat 11 (s.slot k).len).toNat = (s.slot k).buf.length := by
    rw [BitVec.toNat_ofNat]
    exact Nat.mod_eq_of_lt (Nat.lt_succ_of_le h)
  rw [exec, execPktLen, State.respond_eq_answers, hlen]

theorem toNat_ofBool_append_code (x : Bool) (sp : Speed) :
    (BitVec.ofBool x ++ sp.code).toNat = speedCode sp + if x then 8 else 0 := by
  cases x <;> cases sp <;> rfl

theorem exec_pktAttr (k : SlotId) (s : State) : exec (.pktAttr k) s =
    .next (answers s (speedCode (s.slot k).speed + if (s.slot k).ext then 8 else 0)) := by
  rw [exec, execPktAttr, State.respond_eq_answers, toNat_ofBool_append_code]

/-! ### Emptiness, PID and type (R119, R120, R122) -/

theorem toNat_ofBool_eq (b : Bool) : (BitVec.ofBool b).toNat = if b then 1 else 0 := by cases b <;> rfl

theorem exec_pktEmpty (k : SlotId) (s : State) :
    exec (.pktEmpty k) s = .next (answers s (if (s.slot k).buf = [] then 1 else 0)) := by
  rw [exec, execPktEmpty, State.respondBool, State.respond_eq_answers, toNat_ofBool_eq]
  simp only [Packet.isEmpty, Packet.len, beq_iff_eq, List.length_eq_zero_iff]

theorem exec_pktPid (k : SlotId) (s : State) :
    exec (.pktPid k) s = .next (answersIf s ((s.slot k).buf != []) (byteAt (s.slot k) 0)) := by
  have hbuf : ((s.slot k).buf != []) = decide (0 < (s.slot k).buf.length) := by
    rw [Bool.eq_iff_iff, bne_iff_ne, decide_eq_true_iff, List.length_pos_iff]
  rw [hbuf]
  exact congrArg _ (s.respondOption_eq_answersIf ((s.slot k).map_toNat_getElem?_buf 0))

/-- The type code is that of the kind; an empty packet and one of no legal PID have the last code. -/
theorem Packet.toNat_ptype (p : Packet) : p.ptype.toNat =
    if isSof p then 0 else if isToken p then 1 else if isData p then 2 else if isHandshake p then 3
    else if isSplit p then 4 else if isExt p || isExt2 p then 5 else 6 := by
  rw [isSof_eq_kind, isToken_eq_kind, isData_eq_kind, isHandshake_eq_kind, isSplit_eq_kind, isExt_eq_kind,
    isExt2_eq_kind, Packet.ptype]
  cases p.kind <;> rfl

theorem exec_pktType (k : SlotId) (s : State) : exec (.pktType k) s = .next (answers s
    (if isSof (s.slot k) then 0 else if isToken (s.slot k) then 1 else if isData (s.slot k) then 2
    else if isHandshake (s.slot k) then 3 else if isSplit (s.slot k) then 4
    else if isExt (s.slot k) || isExt2 (s.slot k) then 5 else 6)) := by
  rw [exec, execPktType, State.respond_eq_answers, Packet.toNat_ptype]

end Sys2Proof.Machine

namespace Sys2Proof.Proofs

open Sys2Proof.Machine Sys2Proof.Stmt

/-- Settles O22; the reserved speeds are those of a term that is not well-formed. -/
theorem packetClearAndSet : Obligations.PacketClearAndSet := by
  refine ⟨coded_of_slot_opcode rfl, coded_of_opcode rfl fmtP_eq fun c => ?_, fun k s => ?_,
    fun k x w s sp => exec_pktSet_speedCode k sp x w s, fun k v x w s hv => ?_⟩
  · rw [slotField_eq_slotOf, extField_eq_fld, Command.speedField, extractLsb'_eq_ofNat_fld, Command.timeData]
  · rw [withSlot_answers]
    rfl
  · exact exec_of_not_wellFormed s (decide_eq_false (Nat.not_lt.2 hv))

/-- Settles O23, by whether the slot is full. -/
theorem packetAppend : Obligations.PacketAppend := by
  refine ⟨coded_of_opcode rfl fmtA_eq fun c => ?_, fun _ b _ h => exec_pktApp_of_not_full h b,
    fun _ b _ h => exec_pktApp_of_full h b⟩
  rw [slotField_eq_slotOf, Command.byteField, extractLsb'_eq_ofNat_fld]

/-- Settles O24: one lemma per command, on the slot as it is stored. -/
theorem packetReadback : Obligations.PacketReadback := by
  refine ⟨coded_of_opcode rfl fmtO_eq fun c => ?_, coded_of_slot_opcode rfl, coded_of_slot_opcode rfl,
    coded_of_slot_opcode rfl, exec_pktRb, fun _ _ => exec_pktLen,
    fun k s => congrArg _ (s.respond_eq_answers _), exec_pktAttr⟩
  rw [slotField_eq_slotOf, Command.offField, extractLsb'_eq_ofNat_fld]

/-- Settles O25; the type is told by the packet's kind. -/
theorem packetEmptyPidAndType : Obligations.PacketEmptyPidAndType :=
  ⟨coded_of_slot_opcode rfl, coded_of_slot_opcode rfl, coded_of_slot_opcode rfl,
    fun k s => ⟨exec_pktEmpty k s, exec_pktPid k s, exec_pktType k s⟩⟩

end Sys2Proof.Proofs
end

section
/-! PROOFS. The fields of a packet (spec/40_packet.md R123 to R131): the bits of the little-endian words that the
statements read are the bits of the packet's bytes, and each accessor answers its slice of such a word. -/

namespace Sys2Proof.Machine

open Sys2Proof.Stmt

/-! ### Little-endian words of a packet, bit by bit (R6, R7) -/

theorem byteAt_lt (p : Packet) (i : Nat) : byteAt p i < 2 ^ 8 := BitVec.isLt _

theorem leWord_succ (p : Packet) (off n : Nat) : le p off (n + 1) = 2 ^ (8 * n) * byteAt p (off + n) + le p off n := by
  rw [le, List.range_succ, List.map_append, List.sum_append, ← le, List.map_singleton, List.sum_singleton, pow_mul,
    Nat.mul_comm, Nat.add_comm]
  rfl

theorem leWord_lt (p : Packet) (off n : Nat) : le p off n < 2 ^ (8 * n) := by
  induction n with
  | zero => exact Nat.one_pos
  | succ n ih =>
    rw [leWord_succ, Nat.mul_succ 8 n, Nat.pow_add]
    calc 2 ^ (8 * n) * byteAt p (off + n) + le p off n
      _ < 2 ^ (8 * n) * (byteAt p (off + n) + 1) := Nat.add_lt_add_left ih _
      _ ≤ 2 ^ (8 * n) * 2 ^ 8 := Nat.mul_le_mul_left _ (byteAt_lt p (off + n))

/-- Bit `i` of a word of `n` bytes is bit `i mod 8` of its byte `i div 8`. -/
theorem testBit_leWord (p : Packet) (off : Nat) {n i : Nat} (hi : i < 8 * n) :
    (le p off n).testBit i = (byteAt p (off + i / 8)).testBit (i % 8) := by
  induction n with
  | zero => omega
  | succ n ih =>
    rw [leWord_succ, Nat.testBit_two_pow_mul_add _ (leWord_lt p off n)]
    split
    case isTrue h => exact ih h
    case isFalse h => rw [show i / 8 = n by omega, show i % 8 = i - 8 * n by omega]

theorem testBit_bits (v hi lo i : Nat) :
    (bits v hi lo).testBit i = (decide (i < hi + 1 - lo) && v.testBit (i + lo)) := by
  rw [bits, Nat.testBit_mod_two_pow, Nat.testBit_div_two_pow]

/-! ### The fields of a packet (R91 to R93) -/

/-- A bit vector is the slice of `v` that its bits are read from. -/
theorem toNat_eq_bits {w v hi lo : Nat} {x : BitVec w} (hw : hi + 1 - lo = w)
    (h : ∀ i < w, x.getLsbD i = v.testBit (i + lo)) : x.toNat = bits v hi lo := by
  refine Nat.eq_of_testBit_eq fun i => ?_
  rw [testBit_bits, BitVec.testBit_toNat, hw]
  by_cases hi : i < w
  · rw [h i hi, decide_eq_true hi, Bool.true_and]
  · rw [BitVec.getLsbD_of_ge x i (Nat.le_of_not_lt hi), decide_eq_false hi, Bool.false_and]

/-! ### Packets that carry their fields (R97, R111) -/

theorem Packet.has_eq {ks : List Kind} {m : Nat} (hm : ∀ k ∈ ks, k.minlen = some m) (p : Packet) :
    p.has ks = (decide (p.kind ∈ ks) && decide (m ≤ p.buf.length)) := by
  rw [Bool.eq_iff_iff, p.has_iff, Bool.and_eq_true, decide_eq_true_iff, decide_eq_true_iff]
  refine and_congr_right fun hk => ?_
  rw [hm _ hk]
  simp [Packet.len]

theorem has_token_ext (p : Packet) : p.has [.token, .ext] = hasAddr p := by
  rw [Packet.has_eq (m := 3) (by decide), hasAddr, isToken_eq_kind, isExt_eq_kind]
  cases p.kind <;> rfl

theorem has_sof (p : Packet) : p.has [.sof] = (isSof p && decide (3 ≤ p.buf.length)) := by
  rw [Packet.has_eq (m := 3) (by decide), isSof_eq_kind]
  cases p.kind <;> rfl

theorem has_split (p : Packet) : p.has [.split] = hasHub p := by
  rw [Packet.has_eq (m := 4) (by decide), hasHub, isSplit_eq_kind]
  cases p.kind <;> rfl

theorem has_data (p : Packet) : p.has [.data] = has16 p := by
  rw [Packet.has_eq (m := 3) (by decide), has16, isData_eq_kind]
  cases p.kind <;> rfl

theorem is11_eq_kind (p : Packet) : is11 p = decide (p.kind ∈ kindsCrc11) := by
  rw [is11, isToken_eq_kind, isSof_eq_kind, isExt_eq_kind, isExt2_eq_kind]
  cases p.kind <;> rfl

theorem has_kindsCrc11 (p : Packet) : p.has kindsCrc11 = has11 p := by
  rw [Packet.has_eq (m := 3) (by decide), has11, is11_eq_kind]

/-- An accessor that asks for kinds of one minimum length answers the number `v` where its formula `o` is `v` in every
packet of that length or more. -/
theorem map_toNat_of_has {p : Packet} {ks : List Kind} {known : Bool} {m w v : Nat} {o : Option (BitVec w)}
    (hknown : p.has ks = known) (hm : ∀ k ∈ ks, k.minlen = some m)
    (h : m ≤ p.buf.length → o.map BitVec.toNat = some v) :
    (if p.has ks then o else none).map BitVec.toNat = if known then some v else none := by
  subst hknown
  split
  case isFalse => rfl
  case isTrue hhas =>
    rw [Packet.has_eq hm, Bool.and_eq_true] at hhas
    exact h (of_decide_eq_true hhas.2)

/-! ### Fields as slices of little-endian words (R91 to R93) -/

theorem testBit_byteAt {p : Packet} {i : Nat} (h : i < p.buf.length) (j : Nat) :
    (byteAt p i).testBit j = p.buf[i].getLsbD j := by
  rw [byteAt, List.getElem?_eq_getElem h, Option.getD_some, BitVec.testBit_toNat]

/-- A field inside byte `j` of the word is a slice of the word. -/
theorem map_toNat_byteField {p : Packet} {off n j lo w : Nat} (hlen : off + n ≤ p.buf.length) (hj : j < n)
    (hw : lo + (w + 1) ≤ 8) :
    (p.buf[off + j]?.bind fun b => some (b.extractLsb' lo (w + 1))).map BitVec.toNat =
      some (bits (le p off n) (8 * j + lo + w) (8 * j + lo)) := by
  have hlt : off + j < p.buf.length := by omega
  rw [List.getElem?_eq_getElem hlt, Option.bind_some, Option.map_some]
  refine congrArg some (toNat_eq_bits (by omega) fun i hi => ?_)
  rw [testBit_leWord p off (show i + (8 * j + lo) < 8 * n by omega), show (i + (8 * j + lo)) / 8 = j by omega,
    show (i + (8 * j + lo)) % 8 = lo + i by omega, testBit_byteAt hlt, BitVec.getLsbD_extractLsb', decide_eq_true hi,
    Bool.true_and]

/-- A field of the low bits of the word's second byte above the bits of its first byte from `lo` up. -/
theorem map_toNat_twoByteField {p : Packet} {off last w lo : Nat} (hlast : last = off + 1) (hlen : last < p.buf.length)
    (hw : w + 1 ≤ 8) (hlo : lo ≤ 8) :
    (p.buf[off]?.bind fun b => p.buf[last]?.bind fun d =>
      some (d.extractLsb' 0 (w + 1) ++ b.extractLsb' lo (8 - lo))).map BitVec.toNat =
      some (bits (le p off 2) (8 + w) lo) := by
  subst hlast
  have hfirst : off < p.buf.length := Nat.lt_of_succ_lt hlen
  rw [List.getElem?_eq_getElem hfirst, List.getElem?_eq_getElem hlen, Option.bind_some, Option.bind_some,
    Option.map_some]
  refine congrArg some (toNat_eq_bits (by omega) fun i hi => ?_)
  rw [BitVec.getLsbD_append, testBit_leWord p off (show i + lo < 8 * 2 by omega)]
  by_cases hi8 : i < 8 - lo
  · rw [if_pos hi8, show (i + lo) / 8 = 0 by omega, show (i + lo) % 8 = lo + i by omega, Nat.add_zero,
      testBit_byteAt hfirst, BitVec.getLsbD_extractLsb', decide_eq_true hi8, Bool.true_and]
  · rw [if_neg hi8, show (i + lo) / 8 = 1 by omega, show (i + lo) % 8 = i - (8 - lo) by omega,
      testBit_byteAt hlen, BitVec.getLsbD_extractLsb', decide_eq_true (show i - (8 - lo) < w + 1 by omega),
      Bool.true_and, Nat.zero_add]

theorem Packet.map_toNat_addr (p : Packet) :
    p.addr.map BitVec.toNat = if hasAddr p then some (bits (le p 1 2) 6 0) else none :=
  map_toNat_of_has (m := 3) (has_token_ext p) (by decide) fun hlen =>
    map_toNat_byteField (j := 0) (lo := 0) (w := 6) hlen (by decide) (by decide)

theorem Packet.map_toNat_endp (p : Packet) :
    p.endp.map BitVec.toNat = if hasAddr p then some (bits (le p 1 2) 10 7) else none :=
  map_toNat_of_has (m := 3) (has_token_ext p) (by decide) fun hlen =>
    map_toNat_twoByteField (w := 2) (lo := 7) rfl hlen (by decide) (by decide)

theorem Packet.map_toNat_frame (p : Packet) : p.frame.map BitVec.toNat =
    if isSof p && decide (3 ≤ p.buf.length) then some (bits (le p 1 2) 10 0) else none := by
  refine map_toNat_of_has (m := 3) (has_sof p) (by decide) fun hlen => ?_
  have hfield := map_toNat_twoByteField (p := p) (off := 1) (w := 2) (lo := 0) rfl hlen (by decide) (by decide)
  simp only [BitVec.extractLsb'_eq_self] at hfield
  exact hfield

/-- The fields of a split packet: bits `lo + w` to `lo` of byte `j` after the PID. -/
theorem map_toNat_splitField {p : Packet} {j lo w : Nat} (hj : j < 3) (hw : lo + (w + 1) ≤ 8) :
    (if p.has [.split] then (p.buf[1 + j]?.bind fun b => some (b.extractLsb' lo (w + 1))) else none).map BitVec.toNat =
      if hasHub p then some (bits (le p 1 3) (8 * j + lo + w) (8 * j + lo)) else none :=
  map_toNat_of_has (m := 4) (has_split p) (by decide) fun hlen => map_toNat_byteField hlen hj hw

theorem Packet.map_toNat_hubaddr (p : Packet) :
    p.hubaddr.map BitVec.toNat = if hasHub p then some (bits (le p 1 3) 6 0) else none :=
  map_toNat_splitField (j := 0) (lo := 0) (w := 6) (by decide) (by decide)

theorem Packet.map_toNat_sc (p : Packet) :
    p.sc.map BitVec.toNat = if hasHub p then some (bits (le p 1 3) 7 7) else none :=
  map_toNat_splitField (j := 0) (lo := 7) (w := 0) (by decide) (by decide)

theorem Packet.map_toNat_hubport (p : Packet) :
    p.hubport.map BitVec.toNat = if hasHub p then some (bits (le p 1 3) 14 8) else none :=
  map_toNat_splitField (j := 1) (lo := 0) (w := 6) (by decide) (by decide)

theorem Packet.map_toNat_sbit (p : Packet) :
    p.sbit.map BitVec.toNat = if hasHub p then some (bits (le p 1 3) 15 15) else none :=
  map_toNat_splitField (j := 1) (lo := 7) (w := 0) (by decide) (by decide)

theorem Packet.map_toNat_ebit (p : Packet) :
    p.ebit.map BitVec.toNat = if hasHub p then some (bits (le p 1 3) 16 16) else none :=
  map_toNat_splitField (j := 2) (lo := 0) (w := 0) (by decide) (by decide)

theorem Packet.map_toNat_et (p : Packet) :
    p.et.map BitVec.toNat = if hasHub p then some (bits (le p 1 3) 18 17) else none :=
  map_toNat_splitField (j := 2) (lo := 1) (w := 1) (by decide) (by decide)

end Sys2Proof.Machine

namespace Sys2Proof.Proofs

open Sys2Proof.Machine Sys2Proof.Stmt

/-- Settles O26: each field is a slice of the two-byte word after the PID. -/
theorem packetTokenAndFrameFields : Obligations.PacketTokenAndFrameFields :=
  ⟨coded_of_slot_opcode rfl, coded_of_slot_opcode rfl, coded_of_slot_opcode rfl, fun k s =>
    ⟨congrArg _ (s.respondOption_eq_answersIf (s.slot k).map_toNat_addr),
      congrArg _ (s.respondOption_eq_answersIf (s.slot k).map_toNat_endp),
      congrArg _ (s.respondOption_eq_answersIf (s.slot k).map_toNat_frame)⟩⟩

/-- Settles O27: each field lies inside one byte of the three-byte word after the PID. -/
theorem packetSplitFields : Obligations.PacketSplitFields :=
  ⟨coded_of_slot_opcode rfl, coded_of_slot_opcode rfl, coded_of_slot_opcode rfl, coded_of_slot_opcode rfl,
    coded_of_slot_opcode rfl, coded_of_slot_opcode rfl, fun k s =>
    ⟨congrArg _ (s.respondOption_eq_answersIf (s.slot k).map_toNat_hubaddr),
      congrArg _ (s.respondOption_eq_answersIf (s.slot k).map_toNat_hubport),
      congrArg _ (s.respondOption_eq_answersIf (s.slot k).map_toNat_sc),
      congrArg _ (s.respondOption_eq_answersIf (s.slot k).map_toNat_sbit),
      congrArg _ (s.respondOption_eq_answersIf (s.slot k).map_toNat_ebit),
      congrArg _ (s.respondOption_eq_answersIf (s.slot k).map_toNat_et)⟩⟩

end Sys2Proof.Proofs
end

section
/-! PROOFS. The CRCs of a packet (spec/40_packet.md R132 to R135): the stored fields are slices of the packet's words,
and the model's form of each CRC, with its final reversal, is the form without one (spec/41_crc.md R150, R151). -/

namespace Sys2Proof.Machine

open Sys2Proof.Stmt

/-! ### The CRC-5 of a packet: 11 or 19 covered bits (R132, R133) -/

/-- A CRC-5 accessor has one value for the kinds of 11 covered bits and another for split packets, which are none of
those kinds. -/
theorem map_toNat_crc5 {p : Packet} {o11 o19 : Option (BitVec 5)} {v11 v19 : Nat}
    (h11 : 3 ≤ p.buf.length → o11.map BitVec.toNat = some v11)
    (h19 : 4 ≤ p.buf.length → o19.map BitVec.toNat = some v19) :
    (if p.has kindsCrc11 then o11 else if p.has [.split] then o19 else none).map BitVec.toNat =
      if has11 p || hasHub p then some (if isSplit p then v19 else v11) else none := by
  rw [has_kindsCrc11]
  cases hhas : has11 p with
  | true =>
    obtain ⟨hkind, hlen⟩ := Bool.and_eq_true_iff.1 hhas
    have hsplit : isSplit p = false := by
      rw [is11_eq_kind, decide_eq_true_iff] at hkind
      rw [isSplit_eq_kind, beq_eq_false_iff_ne]
      exact fun hsplit => absurd (hsplit ▸ hkind) (by decide)
    rw [hsplit]
    exact h11 (of_decide_eq_true hlen)
  | false =>
    refine (map_toNat_of_has (m := 4) (has_split p) (by decide) h19).trans ?_
    cases hhub : hasHub p with
    | false => rfl
    | true => rw [(Bool.and_eq_true_iff.1 hhub).1]; rfl

theorem Packet.map_toNat_crc5Stored (p : Packet) :
    p.crc5Stored.map BitVec.toNat = if has11 p || hasHub p then some (stored5 p) else none :=
  map_toNat_crc5 (fun hlen => map_toNat_byteField (j := 1) (lo := 3) (w := 4) hlen (by decide) (by decide))
    fun hlen => map_toNat_byteField (j := 2) (lo := 3) (w := 4) hlen (by decide) (by decide)

theorem bits_eq_self {v w : Nat} (h : v < 2 ^ (w + 1)) : bits v w 0 = v := by
  rw [bits, Nat.pow_zero, Nat.div_one]
  exact Nat.mod_eq_of_lt h

theorem Packet.map_toNat_crc16Stored (p : Packet) :
    p.crc16Stored.map BitVec.toNat = if has16 p then some (stored16 p) else none := by
  refine map_toNat_of_has (m := 3) (has_data p) (by decide) fun hlen => ?_
  have hlast : p.len - 1 = p.len - 2 + 1 := by simp only [Packet.len]; omega
  have hfield := map_toNat_twoByteField (p := p) (w := 7) (lo := 0) hlast (by simp only [Packet.len]; omega) (by decide)
    (by decide)
  simp only [BitVec.extractLsb'_eq_self] at hfield
  exact hfield.trans (congrArg some (bits_eq_self (leWord_lt p _ 2)))

/-! ### The CRC of a bit sequence, shifted the other way (R150, R151) -/

section
variable {w : Nat}

theorem reverse_xor (x y : BitVec w) : (x ^^^ y).reverse = x.reverse ^^^ y.reverse := by
  refine BitVec.eq_of_getLsbD_eq fun i hi => ?_
  simp [BitVec.getLsbD_reverse, BitVec.getMsbD_xor]

theorem reverse_shiftLeft_one (x : BitVec w) : (x <<< 1).reverse = x.reverse >>> 1 := by
  refine BitVec.eq_of_getLsbD_eq fun i hi => ?_
  simp [BitVec.getLsbD_reverse, BitVec.getLsbD_ushiftRight, Nat.add_comm]

/-- The register bit that a step of the first form tests is bit 0 of the second form's number. -/
theorem testBit_zero_reverse (x : BitVec (w + 1)) : x.reverse.toNat.testBit 0 = x.getLsbD w := by
  rw [BitVec.testBit_toNat, BitVec.getLsbD_reverse]
  simp [BitVec.getMsbD]

/-- Folding the first form's step and reversing at the end is folding the second form's step. -/
theorem toNat_reverse_foldl (poly init : BitVec (w + 1)) (bs : List Bool) :
    (bs.foldl (fun (r : BitVec (w + 1)) b => if (b ^^ r.getLsbD w) then (r <<< 1) ^^^ poly else r <<< 1)
      init).reverse.toNat =
    bs.foldl (fun v b => if (b ^^ v.testBit 0) then (v / 2) ^^^ poly.reverse.toNat else v / 2)
      init.reverse.toNat := by
  refine (List.foldl_hom (fun r : BitVec (w + 1) => r.reverse.toNat) fun r b => ?_).symm
  have hshift : (r <<< 1).reverse.toNat = r.reverse.toNat / 2 := by
    rw [reverse_shiftLeft_one, BitVec.toNat_ushiftRight, Nat.shiftRight_one]
  rw [testBit_zero_reverse]
  split
  · rw [reverse_xor, BitVec.toNat_xor, hshift]
  · rw [hshift]

end

theorem toNat_crc5 (bs : List Bool) : (crc5 bs).toNat = crc5Of bs := by
  rw [crc5, reverse_xor, BitVec.toNat_xor]
  exact congrArg (· ^^^ 0x1F) (toNat_reverse_foldl Config.crc5Poly 0x1F#5 bs)

theorem toNat_crc16 (bs : List Bool) : (crc16 bs).toNat = crc16Of bs := by
  rw [crc16, reverse_xor, BitVec.toNat_xor]
  exact congrArg (· ^^^ 0xFFFF) (toNat_reverse_foldl Config.crc16Poly 0xFFFF#16 bs)

/-! ### The CRCs recomputed over a packet (R133, R135) -/

/-- The bit sequence of the model is that of R7 where the range lies inside the packet. -/
theorem bitstream_eq_stream {p : Packet} {off n : Nat} (h : 8 * off + n ≤ 8 * p.buf.length) :
    bitstream p.buf off n = stream p off n := by
  refine List.ext_getElem? fun i => ?_
  rw [bitstream, stream, List.getElem?_take, List.getElem?_map]
  split
  case isTrue hi =>
    have hlt : off + i / 8 < p.buf.length := by omega
    rw [flatMap_byteBits_getElem?, List.getElem?_drop, List.getElem?_eq_getElem hlt, List.getElem?_range hi,
      Option.map_some, Option.map_some, testBit_byteAt hlt]
  case isFalse hi => rw [List.getElem?_eq_none (by simpa using hi), Option.map_none]

theorem Packet.map_toNat_crc5Computed (p : Packet) :
    p.crc5Computed.map BitVec.toNat = if has11 p || hasHub p then some (computed5 p) else none := by
  have hvalue : computed5 p = if isSplit p then crc5Of (stream p 1 19) else crc5Of (stream p 1 11) := by
    rw [computed5]
    split <;> rfl
  rw [hvalue]
  refine map_toNat_crc5 (fun hlen => ?_) fun hlen => ?_
  all_goals rw [Option.map_some, toNat_crc5, bitstream_eq_stream (by omega)]

theorem Packet.map_toNat_crc16Computed (p : Packet) :
    p.crc16Computed.map BitVec.toNat = if has16 p then some (computed16 p) else none := by
  refine map_toNat_of_has (m := 3) (has_data p) (by decide) fun hlen => ?_
  rw [Option.map_some, toNat_crc16, bitstream_eq_stream (by simp only [Packet.len]; omega), computed16, Packet.len]

end Sys2Proof.Machine

namespace Sys2Proof.Proofs

open Sys2Proof.Machine Sys2Proof.Stmt

/-- Settles O28: the stored CRC-5 lies inside one byte, the stored CRC-16 is a two-byte word. -/
theorem packetStoredCrcs : Obligations.PacketStoredCrcs :=
  ⟨coded_of_slot_opcode rfl, coded_of_slot_opcode rfl, fun k s =>
    ⟨congrArg _ (s.respondOption_eq_answersIf (s.slot k).map_toNat_crc5Stored),
      congrArg _ (s.respondOption_eq_answersIf (s.slot k).map_toNat_crc16Stored)⟩⟩

/-- Settles O29: the covered bits lie inside the packet, and the two forms of each CRC agree. -/
theorem packetComputedCrcs : Obligations.PacketComputedCrcs :=
  ⟨coded_of_slot_opcode rfl, coded_of_slot_opcode rfl, fun k s =>
    ⟨congrArg _ (s.respondOption_eq_answersIf (s.slot k).map_toNat_crc5Computed),
      congrArg _ (s.respondOption_eq_answersIf (s.slot k).map_toNat_crc16Computed)⟩⟩

end Sys2Proof.Proofs
end

section
/-! PROOFS. The error set of a packet (spec/40_packet.md R136 to R138): each bit has its condition from the statements,
and which bits exclude or imply each other. -/

namespace Sys2Proof.Machine

open Sys2Proof.Stmt

/-! ### The error bits in the statements' terms (R136) -/

theorem crcDiffers_eq {w v u : Nat} {known : Bool} {stored computed : Option (BitVec w)}
    (hstored : stored.map BitVec.toNat = if known then some v else none)
    (hcomputed : computed.map BitVec.toNat = if known then some u else none) :
    crcDiffers stored computed = (known && v != u) := by
  cases known with
  | false =>
    obtain rfl : stored = none := Option.map_eq_none_iff.1 hstored
    rfl
  | true =>
    obtain ⟨x, rfl, rfl⟩ := Option.map_eq_some_iff.1 hstored
    obtain ⟨y, rfl, rfl⟩ := Option.map_eq_some_iff.1 hcomputed
    rw [Bool.eq_iff_iff, Bool.true_and, bne_iff_ne, crcDiffers, decide_eq_true_iff, ne_eq, Option.some_inj,
      ← BitVec.toNat_inj]
    exact ne_comm

theorem Packet.badPid_eq (p : Packet) : p.badPid = isInvalid p := (isInvalid_eq_kind p).symm

theorem Packet.badCrc_eq (p : Packet) : p.badCrc = crcWrong p := by
  rw [Packet.badCrc, crcDiffers_eq p.map_toNat_crc5Stored p.map_toNat_crc5Computed,
    crcDiffers_eq p.map_toNat_crc16Stored p.map_toNat_crc16Computed, crcWrong]

theorem Packet.badLen_eq (p : Packet) : p.badLen = lenWrong p := by
  rw [lenWrong, is11_eq_kind, isHandshake_eq_kind, isSplit_eq_kind, isData_eq_kind, Packet.badLen]
  cases p.kind
  case data => rfl
  all_goals simp [Kind.nomlen, kindsCrc11, Packet.len, beq_eq_decide]

theorem Packet.noAddrEndp_eq (p : Packet) :
    p.noAddrEndp = ((isToken p || isExt p) && decide (p.buf.length < 3)) := by
  rw [isToken_eq_kind, isExt_eq_kind, Packet.noAddrEndp]
  cases p.kind <;> rfl

theorem Packet.noCrc5_eq (p : Packet) : p.noCrc5 =
    (is11 p && decide (p.buf.length < 3) || isSplit p && decide (p.buf.length < 4)) := by
  rw [is11_eq_kind, isSplit_eq_kind]
  rfl

theorem Packet.noHub_eq (p : Packet) : p.noHub = (isSplit p && decide (p.buf.length < 4)) := by
  rw [isSplit_eq_kind]
  rfl

/-! ### The error set of a packet (R136) -/

theorem Packet.badCrc_of_no_fields {p : Packet} (h : ∀ ks, ¬p.has ks = true) : p.badCrc = false := by
  simp [Packet.badCrc, Packet.crc5Stored, Packet.crc16Stored, crcDiffers, h]

theorem Kind.eq_of_minlen_eq_none {k : Kind} (h : k.minlen = none) : k = .absent ∨ k = .invalid := by
  cases k <;> simp_all [Kind.minlen]

/-- A packet that is absent or of invalid kind has no length to miss and no field to lack. -/
theorem Packet.errors_of_no_minlen {p : Packet} (h : p.kind.minlen = none) : p.badCrc = false ∧ p.badLen = false ∧
    p.noAddrEndp = false ∧ p.noCrc5 = false ∧ p.noHub = false := by
  refine ⟨Packet.badCrc_of_no_fields fun ks => by simp [Packet.has, h], ?_⟩
  simp only [Packet.badLen, Packet.noAddrEndp, Packet.noCrc5, Packet.noHub]
  rcases Kind.eq_of_minlen_eq_none h with hkind | hkind <;> rw [hkind] <;> exact ⟨rfl, rfl, rfl, rfl⟩

/-- The six bits, also of an absent packet: each asks for a kind or a field that such a packet does not have. -/
theorem Packet.errs_eq (p : Packet) : p.errs = errBit 0 p.badPid ||| errBit 1 p.badCrc ||| errBit 2 p.badLen |||
    errBit 3 p.noAddrEndp ||| errBit 4 p.noCrc5 ||| errBit 5 p.noHub := by
  rw [Packet.errs]
  split
  case isFalse => rfl
  case isTrue h =>
    obtain ⟨hcrc, hlen, haddr, hcrc5, hhub⟩ := Packet.errors_of_no_minlen (p := p) (by rw [h]; rfl)
    rw [Packet.badPid, h, hcrc, hlen, haddr, hcrc5, hhub]
    rfl

/-- The bits do not overlap, so their union is their sum. -/
theorem toNat_errBits : ∀ b0 b1 b2 b3 b4 b5 : Bool,
    (errBit 0 b0 ||| errBit 1 b1 ||| errBit 2 b2 ||| errBit 3 b3 ||| errBit 4 b4 ||| errBit 5 b5).toNat =
      (if b0 then 1 else 0) + (if b1 then 2 else 0) + (if b2 then 4 else 0) + (if b3 then 8 else 0) +
        (if b4 then 16 else 0) + if b5 then 32 else 0 := by decide

theorem Packet.toNat_errs (p : Packet) : p.errs.toNat = errsOf p := by
  rw [p.errs_eq, toNat_errBits, p.badPid_eq, p.badCrc_eq, p.badLen_eq, p.noAddrEndp_eq, p.noCrc5_eq, p.noHub_eq, errsOf]

theorem Packet.getLsbD_errs (p : Packet) (n : Nat) : p.errs.getLsbD n =
    [p.badPid, p.badCrc, p.badLen, p.noAddrEndp, p.noCrc5, p.noHub].getD n false := by
  simp only [p.errs_eq, BitVec.getLsbD_or, getLsbD_errBit]
  match n with
  | 0 | 1 | 2 | 3 | 4 | 5 => simp
  | n + 6 => simp

/-! ### Which errors exclude or imply each other (R136) -/

theorem Packet.badCrc_of_short {p : Packet} (h : p.buf.length < minLength p) : p.badCrc = false :=
  Packet.badCrc_of_no_fields (Packet.has_of_short (.inl h))

/-- A field is missing only in a kind of one exact length, and below that length. -/
theorem Packet.short_of_missing_field {p : Packet} (h : (p.noAddrEndp || p.noCrc5 || p.noHub) = true) :
    ∃ m, p.kind.minlen = some m ∧ p.kind.nomlen = some m ∧ p.len < m := by
  simp only [Packet.noAddrEndp, Packet.noCrc5, Packet.noHub] at h
  cases hk : p.kind <;> simp_all [Kind.minlen, Kind.nomlen, kindsCrc11]

theorem Packet.errs_of_invalid {p : Packet} (h : isInvalid p = true) : p.errs = 1#16 := by
  have hkind : p.kind = .invalid := by rwa [isInvalid_eq_kind, beq_iff_eq] at h
  obtain ⟨hcrc, hlen, haddr, hcrc5, hhub⟩ := Packet.errors_of_no_minlen (p := p) (by rw [hkind]; rfl)
  rw [p.errs_eq, Packet.badPid, hkind, hcrc, hlen, haddr, hcrc5, hhub]
  rfl

theorem Packet.badPid_of_ext {p : Packet} (h : p.ext = true) : p.badPid = false := by
  rw [Packet.badPid]
  cases hbuf : p.buf with
  | nil => rw [Packet.kind_of_nil hbuf]; rfl
  | cons b rest => rw [Packet.kind_of_cons hbuf, if_pos h]; rfl

theorem exec_pktErrs (k : SlotId) (s : State) : exec (.pktErrs k) s = .next (answers s (errsOf (s.slot k))) := by
  rw [exec, execPktErrs, State.respond_eq_answers, Packet.toNat_errs]

theorem exec_pktValid (k : SlotId) (s : State) :
    exec (.pktValid k) s = .next (answers s (if errsOf (s.slot k) = 0 then 1 else 0)) := by
  rw [exec, execPktValid, State.respondBool, State.respond_eq_answers, toNat_ofBool_eq, ← Packet.toNat_errs]
  simp only [beq_iff_eq, ← BitVec.toNat_inj, BitVec.toNat_zero]

end Sys2Proof.Machine

namespace Sys2Proof.Proofs

open Sys2Proof.Machine Sys2Proof.Stmt

/-- Settles O31: the error set is the sum of its bits, each with its condition. -/
theorem packetErrorsAndValidity : Obligations.PacketErrorsAndValidity :=
  ⟨coded_of_slot_opcode rfl, coded_of_slot_opcode rfl, fun k s => ⟨exec_pktErrs k s, exec_pktValid k s⟩⟩

/-- Settles O32: a packet below its minimum length has no CRC field to compare, and a kind whose field can be missing
has one exact length. -/
theorem packetErrorsExcludeEachOther : Obligations.PacketErrorsExcludeEachOther := by
  intro p
  simp only [Packet.getLsbD_errs]
  refine ⟨fun hcrc => ?_, fun hmissing => ?_, Packet.errs_of_invalid, Packet.badPid_of_ext, fun n hn => ?_⟩
  · by_contra hshort
    exact absurd hcrc (ne_true_of_eq_false (Packet.badCrc_of_short (Nat.lt_of_not_le hshort)))
  · obtain ⟨m, hmin, hnom, hlt⟩ := Packet.short_of_missing_field hmissing
    have hshort : p.buf.length < minLength p := by rwa [Packet.minLength_of_minlen hmin]
    have hlen : p.badLen = true := by
      rw [Packet.badLen, hnom]
      exact bne_iff_ne.2 hlt.ne
    exact ⟨hshort, hlen, Packet.badCrc_of_short hshort⟩
  · exact List.getD_eq_default _ _ (by simp only [List.length_cons, List.length_nil]; omega)

end Sys2Proof.Proofs
end

section
/-! PROOFS. The CRC engine and the validator (spec/41_crc.md R150 to R158). On the second form's register a number that
goes in bit by bit, low bit first, does what the number xored into the register at once does. The table form of the
CRC-16 (R152) and the constant residuals (R157) follow from that one fact. -/

namespace Sys2Proof.Machine

open Sys2Proof.Stmt

/-! ### The second form's register, on numbers (R150, R151) -/

/-- One step of the second form: the bit goes in, the register moves towards bit 0. -/
def shiftIn (poly v : Nat) (b : Bool) : Nat := if b ^^ v.testBit 0 then (v / 2) ^^^ poly else v / 2

/-- One step of the second form with no bit going in: the loop body of the table of R152. -/
def shiftOut (poly v : Nat) : Nat := if v.testBit 0 then (v / 2) ^^^ poly else v / 2

theorem crc5Of_eq_foldl_shiftIn (bs : List Bool) : crc5Of bs = bs.foldl (shiftIn 0x14) 0x1F ^^^ 0x1F := rfl

theorem crc16Of_eq_foldl_shiftIn (bs : List Bool) : crc16Of bs = bs.foldl (shiftIn 0xA001) 0xFFFF ^^^ 0xFFFF := rfl

theorem t16_eq_iterate_shiftOut (x : Nat) : t16 x = (shiftOut 0xA001)^[8] x :=
  List.foldl_const (shiftOut 0xA001) x (List.range 8)

theorem toNat_reverse_crc5Register (bs : List Bool) :
    (crc5Register bs).reverse.toNat = bs.foldl (shiftIn 0x14) 0x1F :=
  toNat_reverse_foldl Config.crc5Poly 0x1F#5 bs

theorem toNat_reverse_crc16Register (bs : List Bool) :
    (crc16Register bs).reverse.toNat = bs.foldl (shiftIn 0xA001) 0xFFFF :=
  toNat_reverse_foldl Config.crc16Poly 0xFFFF#16 bs

/-! ### A number put in low bit first -/

/-- Of a number xored into the register, one step takes the lowest bit in and leaves the others, moved down. -/
theorem shiftOut_xor (poly c v : Nat) : shiftOut poly (c ^^^ v) = shiftIn poly c (v.testBit 0) ^^^ v / 2 := by
  have hhalf : (c ^^^ v) / 2 = c / 2 ^^^ v / 2 := Nat.xor_div_two
  rw [shiftOut, shiftIn, Nat.testBit_xor, Bool.xor_comm, hhalf]
  split
  · rw [Nat.xor_assoc, Nat.xor_comm (v / 2), ← Nat.xor_assoc]
  · rfl

/-- What stands above the low `n` bits is only moved down by `n` steps. -/
theorem iterate_shiftOut_xor_mul (poly : Nat) (n x q : Nat) :
    (shiftOut poly)^[n] (x ^^^ 2 ^ n * q) = (shiftOut poly)^[n] x ^^^ q := by
  induction n generalizing x with
  | zero => simp
  | succ n ih =>
    have hbit : (2 ^ (n + 1) * q).testBit 0 = false := by
      rw [Nat.testBit_two_pow_mul, decide_eq_false (Nat.not_succ_le_zero n), Bool.false_and]
    have hhalf : 2 ^ (n + 1) * q / 2 = 2 ^ n * q := by
      rw [Nat.pow_succ', Nat.mul_assoc, Nat.mul_div_cancel_left _ Nat.two_pos]
    have hstep : shiftIn poly x false = shiftOut poly x := by rw [shiftIn, shiftOut, Bool.false_xor]
    rw [Function.iterate_succ_apply, shiftOut_xor, hbit, hhalf, hstep, ih, Function.iterate_succ_apply]

theorem lowFirst_succ (n v : Nat) : lowFirst (n + 1) v = v.testBit 0 :: lowFirst n (v / 2) := by
  simp [lowFirst, List.range_succ_eq_map, Nat.testBit_succ]

/-- The bits of an `n`-bit number going in, low bit first, are `n` steps with the number xored in at once. -/
theorem foldl_shiftIn_lowFirst (poly : Nat) {n v : Nat} (hv : v < 2 ^ n) (c : Nat) :
    (lowFirst n v).foldl (shiftIn poly) c = (shiftOut poly)^[n] (c ^^^ v) := by
  induction n generalizing c v with
  | zero =>
    obtain rfl : v = 0 := Nat.lt_one_iff.1 hv
    exact (Nat.xor_zero c).symm
  | succ n ih =>
    rw [lowFirst_succ, List.foldl_cons, ih (by omega), Function.iterate_succ_apply, shiftOut_xor]

/-! ### The two forms (R150, R151) -/

/-- The first form's register as a number. -/
theorem toNat_foldl_shiftLeft {w : Nat} (poly init : BitVec (w + 1)) (bs : List Bool) :
    (bs.foldl (fun (r : BitVec (w + 1)) b => if (b ^^ r.getLsbD w) then (r <<< 1) ^^^ poly else r <<< 1) init).toNat =
    bs.foldl (fun v b => if (b ^^ v.testBit w) then (2 * v % 2 ^ (w + 1)) ^^^ poly.toNat else 2 * v % 2 ^ (w + 1))
      init.toNat := by
  refine (List.foldl_hom BitVec.toNat fun r b => ?_).symm
  have hshift : (r <<< 1).toNat = 2 * r.toNat % 2 ^ (w + 1) := by
    rw [BitVec.toNat_shiftLeft, Nat.shiftLeft_eq, Nat.pow_one, Nat.mul_comm]
  rw [BitVec.testBit_toNat]
  split
  · rw [BitVec.toNat_xor, hshift]
  · rw [hshift]

theorem toNat_crc5Register (bs : List Bool) : (crc5Register bs).toNat = reg5 bs :=
  toNat_foldl_shiftLeft Config.crc5Poly 0x1F#5 bs

theorem toNat_crc16Register (bs : List Bool) : (crc16Register bs).toNat = reg16 bs :=
  toNat_foldl_shiftLeft Config.crc16Poly 0xFFFF#16 bs

theorem toNat_reverse_eq_bitrev {w : Nat} (x : BitVec w) : x.reverse.toNat = bitrev w x.toNat := by
  refine Nat.eq_of_testBit_eq fun i => ?_
  rw [BitVec.testBit_toNat, bitrev, Nat.testBit_ofBits, BitVec.getLsbD_reverse, BitVec.getMsbD]
  by_cases hi : i < w <;> simp [hi, BitVec.testBit_toNat]

theorem crc5Of_lt (bs : List Bool) : crc5Of bs < 32 := toNat_crc5 bs ▸ (crc5 bs).isLt

theorem crc16Of_lt (bs : List Bool) : crc16Of bs < 65536 := toNat_crc16 bs ▸ (crc16 bs).isLt

/-! ### The table form (R152) -/

theorem xor_mod_mul_div (n x : Nat) : x % 2 ^ n ^^^ 2 ^ n * (x / 2 ^ n) = x := by
  refine Nat.eq_of_testBit_eq fun i => ?_
  rw [Nat.testBit_xor, Nat.testBit_mod_two_pow, Nat.testBit_two_pow_mul, Nat.testBit_div_two_pow]
  rcases Nat.lt_or_ge i n with h | h
  · simp [h, Nat.not_le.2 h]
  · simp [h, Nat.not_lt.2 h]

/-- A table of the `n` steps needs an entry for the low `n` bits only. -/
theorem iterate_shiftOut_eq (poly n x : Nat) :
    (shiftOut poly)^[n] x = x / 2 ^ n ^^^ (shiftOut poly)^[n] (x % 2 ^ n) := by
  rw [Nat.xor_comm, ← iterate_shiftOut_xor_mul, xor_mod_mul_div]

theorem foldl_shiftIn_byte (c : Nat) (d : Byte) :
    (lowFirst 8 d.toNat).foldl (shiftIn 0xA001) c = (c / 256) ^^^ t16 ((c ^^^ d.toNat) % 256) := by
  have hhigh : (c ^^^ d.toNat) / 2 ^ 8 = c / 256 := by
    rw [Nat.xor_div_two_pow, Nat.div_eq_of_lt d.isLt, Nat.xor_zero]
  rw [foldl_shiftIn_lowFirst _ d.isLt, iterate_shiftOut_eq, hhigh, t16_eq_iterate_shiftOut]
  rfl

/-- Each byte's eight steps are one look into the table. -/
theorem crc16Of_bitsOf (ds : List Byte) : crc16Of (bitsOf ds) = crc16ByTable ds := by
  rw [crc16Of_eq_foldl_shiftIn, crc16ByTable, bitsOf, List.foldl_flatMap]
  exact congrArg (fun f => ds.foldl f 0xFFFF ^^^ 0xFFFF) (funext₂ foldl_shiftIn_byte)

/-! ### The residuals (R157) -/

/-- A register that takes in its own value, xored with `ones`, forgets the message. -/
theorem foldl_shiftIn_append_xor {poly n init ones : Nat} {bs : List Bool}
    (hlt : bs.foldl (shiftIn poly) init ^^^ ones < 2 ^ n) :
    (bs ++ lowFirst n (bs.foldl (shiftIn poly) init ^^^ ones)).foldl (shiftIn poly) init =
      (shiftOut poly)^[n] ones := by
  rw [List.foldl_append, foldl_shiftIn_lowFirst poly hlt, Nat.xor_xor_cancel_left]

theorem eq_of_toNat_reverse_eq {w : Nat} {x y : BitVec w} (h : x.reverse.toNat = y.reverse.toNat) : x = y := by
  rw [← x.reverse_reverse_eq, BitVec.eq_of_toNat_eq h, BitVec.reverse_reverse_eq]

theorem crc5Register_append_crc5 (bs : List Bool) : crc5Register (bs ++ lowFirst 5 (crc5 bs).toNat) = 0x0C#5 := by
  refine eq_of_toNat_reverse_eq ?_
  rw [toNat_reverse_crc5Register, toNat_crc5, crc5Of_eq_foldl_shiftIn, foldl_shiftIn_append_xor (crc5Of_lt bs)]
  rfl

theorem crc16Register_append_crc16 (bs : List Bool) :
    crc16Register (bs ++ lowFirst 16 (crc16 bs).toNat) = 0x800D#16 := by
  refine eq_of_toNat_reverse_eq ?_
  rw [toNat_reverse_crc16Register, toNat_crc16, crc16Of_eq_foldl_shiftIn,
    foldl_shiftIn_append_xor (crc16Of_lt bs)]
  rfl

/-! ### The validator (R153) -/

/-- Where the kind is legal and the length right, no field is missing, and the CRC error is the only one left. -/
theorem errsOf_of_length {p : Packet} (hpid : isInvalid p = false) (hlen : lenWrong p = false) :
    errsOf p = if crcWrong p then 2 else 0 := by
  have hfields : (p.noAddrEndp || p.noCrc5 || p.noHub) = false := by
    by_contra h
    obtain ⟨m, -, hnom, hlt⟩ := Packet.short_of_missing_field (eq_true_of_ne_false h)
    rw [← Packet.badLen_eq, Packet.badLen, hnom] at hlen
    exact hlt.ne (bne_eq_false_iff_eq.1 hlen)
  rw [Bool.or_eq_false_iff, Bool.or_eq_false_iff, Packet.noAddrEndp_eq, Packet.noCrc5_eq, Packet.noHub_eq] at hfields
  obtain ⟨⟨haddr, hcrc5⟩, hhub⟩ := hfields
  rw [errsOf, hpid, hlen, haddr, hcrc5, hhub]
  simp

/-- A packet's validity is the comparison of the only CRC it carries. -/
theorem exec_pktValid_of_length {k : SlotId} {s : State} {stored computed : Nat}
    (hpid : isInvalid (s.slot k) = false) (hlen : lenWrong (s.slot k) = false)
    (hcrc : crcWrong (s.slot k) = (stored != computed)) :
    exec (.pktValid k) s = .next (answers s (if stored = computed then 1 else 0)) := by
  rw [exec_pktValid, errsOf_of_length hpid hlen, hcrc]
  by_cases h : stored = computed <;> simp [h]

theorem other_kinds_of_is11 {p : Packet} (h : is11 p = true) :
    isInvalid p = false ∧ isHandshake p = false ∧ isSplit p = false ∧ isData p = false := by
  rw [is11_eq_kind] at h
  rw [isInvalid_eq_kind, isHandshake_eq_kind, isSplit_eq_kind, isData_eq_kind]
  revert h
  cases p.kind <;> decide

theorem other_kinds_of_isSplit {p : Packet} (h : isSplit p = true) :
    isInvalid p = false ∧ isHandshake p = false ∧ is11 p = false ∧ isData p = false := by
  rw [isSplit_eq_kind, beq_iff_eq] at h
  rw [isInvalid_eq_kind, isHandshake_eq_kind, is11_eq_kind, isData_eq_kind, h]
  decide

theorem other_kinds_of_isData {p : Packet} (h : isData p = true) :
    isInvalid p = false ∧ isHandshake p = false ∧ is11 p = false ∧ isSplit p = false := by
  rw [isData_eq_kind, beq_iff_eq] at h
  rw [isInvalid_eq_kind, isHandshake_eq_kind, is11_eq_kind, isSplit_eq_kind, h]
  decide

section
variable {k : SlotId} {s : State}

theorem exec_pktValid_of_is11 (h : is11 (s.slot k) = true) (hlen : (s.slot k).buf.length = 3) :
    exec (.pktValid k) s = .next (answers s
      (if bits (le (s.slot k) 1 2) 15 11 = crc5Of (stream (s.slot k) 1 11) then 1 else 0)) := by
  obtain ⟨hpid, hhandshake, hsplit, hdata⟩ := other_kinds_of_is11 h
  refine exec_pktValid_of_length hpid ?_ ?_
  · simp [lenWrong, hhandshake, hsplit, hdata, hlen]
  · simp [crcWrong, has11, hasHub, has16, stored5, computed5, h, hsplit, hdata, hlen]

theorem exec_pktValid_of_isSplit (h : isSplit (s.slot k) = true) (hlen : (s.slot k).buf.length = 4) :
    exec (.pktValid k) s = .next (answers s
      (if bits (le (s.slot k) 1 3) 23 19 = crc5Of (stream (s.slot k) 1 19) then 1 else 0)) := by
  obtain ⟨hpid, hhandshake, h11, hdata⟩ := other_kinds_of_isSplit h
  refine exec_pktValid_of_length hpid ?_ ?_
  · simp [lenWrong, hhandshake, h11, hdata, hlen]
  · simp [crcWrong, has11, hasHub, has16, stored5, computed5, h, h11, hdata, hlen]

theorem exec_pktValid_of_isData (h : isData (s.slot k) = true) (hlen : 3 ≤ (s.slot k).buf.length) :
    exec (.pktValid k) s = .next (answers s
      (if stored16 (s.slot k) = crc16Of (stream (s.slot k) 1 (8 * ((s.slot k).buf.length - 3))) then 1 else 0)) := by
  obtain ⟨hpid, hhandshake, h11, hsplit⟩ := other_kinds_of_isData h
  refine exec_pktValid_of_length hpid ?_ ?_
  · simp [lenWrong, hhandshake, h11, hsplit, hlen]
  · simp [crcWrong, has11, hasHub, has16, computed16, h, h11, hsplit, hlen]

end

/-! ### The two CRC commands (R154, R155) -/

theorem fmtR_eq (cw : Word) : fmtR cw = (cw.toNat &&& Format.r.mask.toNat % 2 ^ 24 == 0) := by
  rw [show Format.r.mask.toNat % 2 ^ 24 = 0 from rfl, Nat.and_zero]
  rfl

/-- A value answered only for a range inside the packet. -/
theorem next_respond_eq_answersIf {s : State} {inside : Prop} [Decidable inside] {w v : Nat} {x : BitVec w}
    (h : inside → x.toNat = v) : (if inside then .next (s.respond x) else .next s.respondUnknown :
      Host.Outcome State Fault Refusal) = .next (answersIf s (decide inside) v) := by
  split
  case isTrue hin => rw [State.respond_eq_answers, h hin, answersIf, if_pos (decide_eq_true hin)]
  case isFalse hin => rw [decide_eq_false hin]; rfl

theorem exec_crc5 (k : SlotId) (off n : BitVec 11) (s : State) : exec (.crc5 k off n) s =
    .next (answersIf s (decide (8 * off.toNat + n.toNat ≤ 8 * (s.slot k).buf.length))
      (crc5Of (stream (s.slot k) off.toNat n.toNat))) :=
  next_respond_eq_answersIf fun hin => by rw [toNat_crc5, bitstream_eq_stream hin]

theorem exec_crc16 (k : SlotId) (off n : BitVec 11) (s : State) : exec (.crc16 k off n) s =
    .next (answersIf s (decide (off.toNat + n.toNat ≤ (s.slot k).buf.length))
      (crc16Of (stream (s.slot k) off.toNat (8 * n.toNat)))) :=
  next_respond_eq_answersIf fun hin => by
    rw [toNat_crc16, bitstream_eq_stream (by simp only [Packet.len] at hin; omega)]

end Sys2Proof.Machine

namespace Sys2Proof.Proofs

open Sys2Proof.Machine Sys2Proof.Stmt

/-- Settles O33, by the three groups of kinds that carry a CRC. -/
theorem validatorComparesStoredAndComputed : Obligations.ValidatorComparesStoredAndComputed :=
  fun _ _ => ⟨exec_pktValid_of_is11, exec_pktValid_of_isSplit, exec_pktValid_of_isData⟩

/-- Settles O34: a range inside the packet gives the same bit sequence in the model and in the rule. -/
theorem crcCommandsOnAnyRange : Obligations.CrcCommandsOnAnyRange := by
  refine ⟨coded_of_opcode rfl fmtR_eq fun c => ?_, coded_of_opcode rfl fmtR_eq fun c => ?_,
    fun k off n s => ⟨exec_crc5 k off n s, exec_crc16 k off n s⟩⟩
  all_goals rw [slotField_eq_slotOf, Command.offField, Command.nField, extractLsb'_eq_ofNat_fld,
    extractLsb'_eq_ofNat_fld]

/-- Settles O35: each form is a fold, and one fold is the image of the other. -/
theorem crcFormsAgree : Obligations.CrcFormsAgree := fun bs =>
  ⟨by rw [crc5, toNat_reverse_eq_bitrev, BitVec.toNat_xor, toNat_crc5Register]; rfl, toNat_crc5 bs, crc5Of_lt bs,
    by rw [crc16, toNat_reverse_eq_bitrev, BitVec.toNat_xor, toNat_crc16Register]; rfl, toNat_crc16 bs, crc16Of_lt bs⟩

/-- Settles O36 by the second form, byte by byte; the six entries are computed. -/
theorem crcSixteenByTableAgrees : Obligations.CrcSixteenByTableAgrees :=
  ⟨fun ds => (toNat_crc16 _).trans (crc16Of_bitsOf ds), by decide⟩

/-- Settles O37: the CRC appended cancels the register's value, and what is left depends on no message. -/
theorem crcResidualsAreConstant : Obligations.CrcResidualsAreConstant := fun bs =>
  ⟨congrArg BitVec.toNat (crc5Register_append_crc5 bs), congrArg BitVec.toNat (crc16Register_append_crc16 bs)⟩

/-- Settles O38: on the second form's numbers each value is reached in one step per bit. -/
theorem crcValuesOnSmallInputs : Obligations.CrcValuesOnSmallInputs := by
  unfold Obligations.CrcValuesOnSmallInputs
  simp only [← BitVec.toNat_inj, toNat_crc5, toNat_crc16]
  simp [crc5Of, crc16Of, bitsOf, List.range_succ, Nat.testBit_eq_decide_div_mod_eq]

end Sys2Proof.Proofs
end

section
/-! PROOFS. The element under work (spec/42_element.md R171 to R180): its header, and what its commands derive from the
constituent packets in the order of `cons` (R170). -/

namespace Sys2Proof.Machine

open Sys2Proof.Stmt

/-! ### Must-be-zero bits (R71) -/

theorem fmtN_eq (cw : Word) : fmtN cw = (cw.toNat &&& Format.n.mask.toNat % 2 ^ 24 == 0) := fld_eq_zero_eq cw 23 0

theorem fmtE_eq (cw : Word) : fmtE cw = (cw.toNat &&& Format.e.mask.toNat % 2 ^ 24 == 0) := fld_eq_zero_eq cw 16 0

/-! ### The header (R82, R171 to R173) -/

theorem EType.ofCode?_etypeCode (e : EType) : EType.ofCode? (BitVec.ofNat 4 (etypeCode e)) = some e := by
  cases e <;> rfl

theorem EType.toNat_code (e : EType) : e.code.toNat = etypeCode e := by cases e <;> rfl

theorem exec_elmSet_etypeCode (e : EType) (x : BitVec 3) (w : Time) (s : State) :
    exec (.elmSet (BitVec.ofNat 4 (etypeCode e)) x w) s =
      .next { answers s 0 with etype := e, estruct := x, etime := w } := by
  rw [exec, execElmSet, EType.ofCode?_etypeCode]
  rfl

theorem exec_elmSet_of_reserved {v : BitVec 4} (hv : 11 ≤ v.toNat) (x : BitVec 3) (w : Time) (s : State) :
    exec (.elmSet v x w) s = .next (refuses s 2) :=
  exec_of_not_wellFormed s (decide_eq_false (Nat.not_lt.2 hv))

theorem exec_elmType (s : State) : exec .elmType s = .next (answers s (etypeCode s.etype)) := by
  rw [exec, execElmType, State.respond_eq_answers, EType.toNat_code]

/-! ### Emptiness and speed (R174, R177) -/

theorem Packet.isEmpty_iff (p : Packet) : p.isEmpty = true ↔ p.buf = [] := by
  rw [Packet.isEmpty, Packet.len, beq_iff_eq, List.length_eq_zero_iff]

theorem State.elmPackets_eq (s : State) : s.elmPackets = (consOf s.etype).map s.slot := by
  rw [State.elmPackets, EType.cons_eq_consOf]

/-- The value is known for the types with packets only. -/
theorem State.map_toNat_elmEmpty (s : State) : (s.elmEmpty.map BitVec.ofBool).map BitVec.toNat =
    if consOf s.etype != [] then some (if ∀ k ∈ consOf s.etype, (s.slot k).buf = [] then 1 else 0) else none := by
  rw [State.elmEmpty, State.elmPackets_eq]
  cases consOf s.etype with
  | nil => rfl
  | cons k ks =>
    have hall : ((k :: ks).map s.slot).all Packet.isEmpty = true ↔ ∀ j ∈ k :: ks, (s.slot j).buf = [] := by
      simp only [List.all_map, List.all_eq_true, Function.comp_apply, Packet.isEmpty_iff]
    simp only [← hall]
    exact congrArg some (toNat_ofBool_eq _)

/-- The search over the packets in order is the search over their slots. -/
theorem find?_nonempty_speed (s : State) (ks : List SlotId) :
    (((ks.map s.slot).find? fun p => !p.isEmpty).map Packet.speed).getD .unknown = firstSpeed s ks := by
  induction ks with
  | nil => rfl
  | cons k ks ih =>
    rw [List.map_cons, firstSpeed, List.find?_cons]
    cases hempty : (s.slot k).isEmpty with
    | true => rw [if_pos ((s.slot k).isEmpty_iff.1 hempty)]; exact ih
    | false => rw [if_neg (mt (s.slot k).isEmpty_iff.2 (ne_true_of_eq_false hempty))]; rfl

theorem State.elmSpeed_eq_firstSpeed (s : State) : s.elmSpeed = firstSpeed s (consOf s.etype) := by
  rw [← find?_nonempty_speed, ← State.elmPackets_eq, State.elmSpeed]
  cases s.elmPackets.find? fun p => !p.isEmpty <;> rfl

theorem Speed.toNat_code (sp : Speed) : sp.code.toNat = speedCode sp := by cases sp <;> rfl

theorem exec_elmSpeed (s : State) :
    exec .elmSpeed s = .next (answers s (speedCode (firstSpeed s (consOf s.etype)))) := by
  rw [exec, execElmSpeed, State.respond_eq_answers, Speed.toNat_code, State.elmSpeed_eq_firstSpeed]

/-! ### Address and endpoint (R175, R176) -/

theorem EType.hasToken_eq (e : EType) : e.hasToken = decide (e ∈ tokenTypes) := by cases e <;> rfl

/-- A field of the token packet is a field of the elements whose type has a token. -/
theorem map_toNat_of_hasToken {e : EType} {w v : Nat} {known : Bool} {o : Option (BitVec w)}
    (h : o.map BitVec.toNat = if known then some v else none) :
    (if e.hasToken then o else none).map BitVec.toNat = if decide (e ∈ tokenTypes) && known then some v else none := by
  rw [EType.hasToken_eq]
  cases decide (e ∈ tokenTypes) with
  | false => rfl
  | true => exact h

/-! ### The error set (R178) -/

theorem errsOf_lt (p : Packet) : errsOf p < 2 ^ 6 := by
  rw [← Packet.toNat_errs]
  refine Nat.lt_pow_two_of_testBit _ fun i hi => ?_
  rw [BitVec.testBit_toNat, Packet.getLsbD_errs]
  exact List.getD_eq_default _ _ hi

theorem errsOf_of_nil {p : Packet} (h : p.buf = []) : errsOf p = 0 := by
  rw [← Packet.toNat_errs, Packet.errs, if_pos (p.kind_eq_absent_iff.2 h)]
  rfl

/-- The union from the last constituent on is the union from the first on. -/
theorem State.toNat_elmPacketErrs (s : State) : s.elmPacketErrs.toNat = constituentErrs s := by
  have hhom : s.elmPacketErrs.toNat = s.elmPackets.foldr (fun p e => errsOf p ||| e) 0 :=
    (List.foldr_hom BitVec.toNat fun p e => by rw [BitVec.toNat_or, Packet.toNat_errs]).symm
  rw [hhom, State.elmPackets_eq, List.foldr_map, constituentErrs,
    ← List.foldl_map (f := fun k => errsOf (s.slot k)) (g := (· ||| ·)), List.foldl_eq_foldr, List.foldr_map]

theorem constituentErrs_lt (s : State) : constituentErrs s < 2 ^ 6 :=
  List.foldlRecOn (motive := (· < 2 ^ 6)) _ _ (by decide) fun _ he k _ => Nat.or_lt_two_pow he (errsOf_lt (s.slot k))

theorem constituentErrs_of_empty {s : State} (h : ∀ k ∈ consOf s.etype, (s.slot k).buf = []) :
    constituentErrs s = 0 :=
  List.foldlRecOn (motive := (· = 0)) _ _ rfl fun _ he k hk => by rw [he, errsOf_of_nil (h k hk), Nat.or_zero]

theorem State.toNat_constituentBit (s : State) :
    (errBit 7 (s.elmPacketErrs != 0#16)).toNat = if constituentErrs s = 0 then 0 else 128 := by
  have hzero : s.elmPacketErrs = 0#16 ↔ constituentErrs s = 0 := by
    rw [← State.toNat_elmPacketErrs, ← BitVec.toNat_inj, BitVec.toNat_zero]
  by_cases h : constituentErrs s = 0 <;> simp [errBit, hzero, h]

theorem toNat_structuralBits (x : BitVec 3) : (x.setWidth 16 <<< 8).toNat = x.toNat <<< 8 := by
  have hlt := x.isLt
  rw [BitVec.toNat_shiftLeft, BitVec.toNat_setWidth, Nat.shiftLeft_eq, Nat.shiftLeft_eq]
  omega

/-- Bit 7 lies above the constituents' bits. -/
theorem constituentBit_or (s : State) : (if constituentErrs s = 0 then 0 else 128) ||| constituentErrs s =
    (if constituentErrs s = 0 then 0 else 128) + constituentErrs s := by
  have hlt := constituentErrs_lt s
  split
  case isTrue h => rw [h, Nat.or_zero]
  case isFalse => exact (Nat.shiftLeft_add_eq_or_of_lt (i := 7) (by omega) 1).symm

/-- The structural bits, bit 7 and the constituents' bits do not overlap, so their union is their sum. -/
theorem State.toNat_elmErrs (s : State) : s.elmErrs.toNat = elmErrsOf s := by
  have hlt := constituentErrs_lt s
  rw [State.elmErrs, BitVec.toNat_or, BitVec.toNat_or, toNat_structuralBits, State.toNat_constituentBit,
    State.toNat_elmPacketErrs, Nat.or_assoc, constituentBit_or,
    ← Nat.shiftLeft_add_eq_or_of_lt (by split <;> omega), Nat.shiftLeft_eq, elmErrsOf, Nat.add_assoc]

theorem exec_elmErrs (s : State) : exec .elmErrs s = .next (answers s (elmErrsOf s)) := by
  rw [exec, execElmErrs, State.respond_eq_answers, State.toNat_elmErrs]

theorem exec_elmValid (s : State) : exec .elmValid s = .next (answers s (if elmErrsOf s = 0 then 1 else 0)) := by
  rw [exec, execElmValid, State.respondBool, State.respond_eq_answers, toNat_ofBool_eq, ← State.toNat_elmErrs]
  simp only [beq_iff_eq, ← BitVec.toNat_inj, BitVec.toNat_zero]

/-- The four fields of the error set: `estruct`, bit 7, bit 6 and the constituents' bits. -/
theorem bits_elmErrsOf (s : State) :
    bits (elmErrsOf s) 15 11 = 0 ∧ bits (elmErrsOf s) 10 8 = s.estruct.toNat ∧
    bits (elmErrsOf s) 7 7 = (if constituentErrs s = 0 then 0 else 1) ∧ bits (elmErrsOf s) 6 6 = 0 ∧
    bits (elmErrsOf s) 5 0 = constituentErrs s := by
  have hlt := constituentErrs_lt s
  have hstruct := s.estruct.isLt
  simp only [bits, elmErrsOf]
  split <;> omega

end Sys2Proof.Machine

namespace Sys2Proof.Proofs

open Sys2Proof.Machine Sys2Proof.Stmt

/-- Settles O39; the reserved types are those of a term that is not well-formed. -/
theorem elementSet : Obligations.ElementSet := by
  refine ⟨coded_of_opcode rfl fmtE_eq fun c => ?_, exec_elmSet_etypeCode,
    fun _ x w s hv => exec_elmSet_of_reserved hv x w s⟩
  rw [Command.etypeField, Command.estructField, extractLsb'_eq_ofNat_fld, extractLsb'_eq_ofNat_fld, Command.timeData]

/-- Settles O40: both commands answer the header as it is stored. -/
theorem elementTypeAndTime : Obligations.ElementTypeAndTime :=
  ⟨coded_of_opcode rfl fmtN_eq fun _ => rfl, coded_of_opcode rfl fmtN_eq fun _ => rfl, fun s =>
    ⟨exec_elmType s, congrArg _ (s.respond_eq_answers s.etime)⟩⟩

/-- Settles O41, on the constituents in the order of the type's list. -/
theorem elementEmptinessAndSpeed : Obligations.ElementEmptinessAndSpeed :=
  ⟨coded_of_opcode rfl fmtN_eq fun _ => rfl, coded_of_opcode rfl fmtN_eq fun _ => rfl, fun s =>
    ⟨congrArg _ (s.respondOption_eq_answersIf s.map_toNat_elmEmpty), exec_elmSpeed s⟩⟩

/-- Settles O42: for the types with a token these are the fields of the packet in slot 1. -/
theorem elementAddressAndEndpoint : Obligations.ElementAddressAndEndpoint :=
  ⟨coded_of_opcode rfl fmtN_eq fun _ => rfl, coded_of_opcode rfl fmtN_eq fun _ => rfl, fun s =>
    ⟨congrArg _ (s.respondOption_eq_answersIf (map_toNat_of_hasToken (s.slot .tok).map_toNat_addr)),
      congrArg _ (s.respondOption_eq_answersIf (map_toNat_of_hasToken (s.slot .tok).map_toNat_endp))⟩⟩

/-- Settles O43: the properties are read off the fields of the error set. -/
theorem elementErrorsAndValidity : Obligations.ElementErrorsAndValidity := by
  refine ⟨coded_of_opcode rfl fmtN_eq fun _ => rfl, coded_of_opcode rfl fmtN_eq fun _ => rfl, fun s => ?_⟩
  obtain ⟨hhigh, hstruct, hseven, hsix, hlow⟩ := bits_elmErrsOf s
  refine ⟨exec_elmErrs s, exec_elmValid s, ?_, fun hempty => ?_, hstruct, hsix, hhigh⟩
  · rw [hseven, hlow]
    split <;> simp [*]
  · simp only [elmErrsOf, constituentErrs_of_empty hempty, if_true, Nat.add_zero]

end Sys2Proof.Proofs
end

section
/-! PROOFS. The sink chain (spec/43_sink_chain.md R191 to R195): which commands move the phase, which emit a forward
event, and the code each command answers with (spec/60_exceptions.md R252). -/

namespace Sys2Proof.Machine

open Sys2Proof.Stmt

/-! ### What moves the phase and what emits an event (R191, R194) -/

/-- Only `INIT` and `FINAL` move the phase; a push keeps it. -/
theorem Effect.phase_eq {s u : State} {i : Instr} (h : Effect s i u) (hinit : i ≠ .init) (hfinal : i ≠ .final) :
    u.phase = s.phase := by
  cases h with
  | init => exact absurd rfl hinit
  | final => exact absurd rfl hfinal
  | elmPush => exact (sameOutsideAccumulator_onElement s).phase
  | unchanged | elmSet | decay | clear | histClr | cntWr | devWr => rfl
  | pktClr k | pktSet k | pktApp k => exact State.setSlot_phase s k _
  | histWr _ _ _ sel => exact State.setHist_phase s sel _

/-- Only an accepted push adds a forward event. -/
theorem Effect.trace_eq {s u : State} {i : Instr} (h : Effect s i u) (hpush : ¬(i = .elmPush ∧ s.phase = .run)) :
    u.trace = s.trace := by
  cases h with
  | elmPush hphase => exact absurd ⟨rfl, hphase⟩ hpush
  | unchanged | elmSet | init | final | decay | clear | histClr | cntWr | devWr => rfl
  | pktClr k | pktSet k | pktApp k => exact State.setSlot_trace s k _
  | histWr _ _ _ sel => exact State.setHist_trace s sel _

/-- An answer announces a forward exactly when an event was added, so one that leaves the trace announces none. -/
theorem AnsweredBy.fwd_eq_false {s t : State} {r : Response} (h : AnsweredBy s r t) (ht : t.trace = s.trace) :
    r.fwd = false := by
  have htrace := h.trace
  rw [ht, List.self_eq_append_right] at htrace
  cases hfwd : r.fwd with
  | false => rfl
  | true => rw [hfwd] at htrace; cases htrace

/-! ### The code of an answer (R252) -/

/-- The code of `cerr` with which command `i` is answered in `s`. -/
def errCode (s : State) : Instr → BitVec 3
  | .pktSet _ speed _ _ => if (Speed.ofCode? speed).isSome then 0#3 else CmdError.reserved.code
  | .elmSet etype _ _ => if (EType.ofCode? etype).isSome then 0#3 else CmdError.reserved.code
  | .histRd h idx | .histWr h idx _ =>
    match HistSel.ofCode? h with
    | none => CmdError.reserved.code
    | some _ => if Config.histLen ≤ idx.toNat then CmdError.range.code else 0#3
  | .pktApp k _ => if (s.slot k).len = Config.pktMax then CmdError.range.code else 0#3
  | .init => if s.phase = .run then CmdError.phase.code else 0#3
  | .final | .elmPush => if s.phase = .run then 0#3 else CmdError.phase.code
  | .nop | .pktClr _ | .pktRb _ _ | .pktLen _ | .pktTime _ | .pktAttr _ | .pktEmpty _ | .pktPid _ | .pktSubpid _
  | .pktType _ | .pktAddr _ | .pktEndp _ | .pktFrame _ | .pktHubaddr _ | .pktHubport _ | .pktSc _ | .pktS _ | .pktE _
  | .pktEt _ | .pktCrc5 _ | .pktCrc5c _ | .pktCrc16 _ | .pktCrc16c _ | .pktErrs _ | .pktValid _ | .crc5 _ _ _
  | .crc16 _ _ _ | .elmType | .elmTime | .elmEmpty | .elmAddr | .elmEndp | .elmSpeed | .elmErrs | .elmValid | .decay
  | .clear | .histClr | .cntRd _ | .cntWr _ _ | .devRd _ | .devWr _ _ _ | .devLast | .statRd | .orgRd => 0#3

/-- The outcome is a next state whose last answer carries the code `c`. -/
def AnswersCode (c : BitVec 3) (o : Host.Outcome State Fault Refusal) : Prop :=
  ∃ (u : State) (r : Response), o = .next (u.answer r) ∧ r.cerr = c

theorem answersCode_respondOption (s : State) {w : Nat} (v : Option (BitVec w)) :
    AnswersCode 0#3 (.next (s.respondOption v)) := by
  cases v <;> exact ⟨s, _, rfl, rfl⟩

theorem answersCode_ite {p : Prop} [Decidable p] {c d : BitVec 3} {o o' : Host.Outcome State Fault Refusal}
    (h : AnswersCode c o) (h' : AnswersCode d o') : AnswersCode (if p then c else d) (if p then o else o') := by
  split
  · exact h
  · exact h'

theorem answersCode_pktSet (s : State) (k : SlotId) (speed : BitVec 3) (ext : Bool) (time : Time) :
    AnswersCode (errCode s (.pktSet k speed ext time)) (execPktSet k speed ext time s) := by
  simp only [execPktSet, errCode]
  cases Speed.ofCode? speed <;> exact ⟨_, _, rfl, rfl⟩

theorem answersCode_elmSet (s : State) (etype : BitVec 4) (estruct : BitVec 3) (time : Time) :
    AnswersCode (errCode s (.elmSet etype estruct time)) (execElmSet etype estruct time s) := by
  simp only [execElmSet, errCode]
  cases EType.ofCode? etype <;> exact ⟨_, _, rfl, rfl⟩

theorem answersCode_pktApp (s : State) (k : SlotId) (byte : Byte) :
    AnswersCode (errCode s (.pktApp k byte)) (execPktApp k byte s) :=
  answersCode_ite ⟨s, _, rfl, rfl⟩ ⟨_, _, rfl, rfl⟩

theorem answersCode_crc5 (s : State) (k : SlotId) (off n : BitVec 11) : AnswersCode 0#3 (execCrc5 k off n s) := by
  unfold execCrc5
  split <;> exact ⟨_, _, rfl, rfl⟩

theorem answersCode_crc16 (s : State) (k : SlotId) (off n : BitVec 11) : AnswersCode 0#3 (execCrc16 k off n s) := by
  unfold execCrc16
  split <;> exact ⟨_, _, rfl, rfl⟩

theorem answersCode_histRd (s : State) (h : BitVec 2) (idx : BitVec 16) :
    AnswersCode (errCode s (.histRd h idx)) (execHistRd h idx s) := by
  simp only [execHistRd, errCode]
  cases HistSel.ofCode? h with
  | none => exact ⟨s, _, rfl, rfl⟩
  | some sel => exact answersCode_ite ⟨s, _, rfl, rfl⟩ ⟨s, _, rfl, rfl⟩

theorem answersCode_histWr (s : State) (h : BitVec 2) (idx : BitVec 16) (v : Byte) :
    AnswersCode (errCode s (.histWr h idx v)) (execHistWr h idx v s) := by
  simp only [execHistWr, errCode]
  cases HistSel.ofCode? h with
  | none => exact ⟨s, _, rfl, rfl⟩
  | some sel => exact answersCode_ite ⟨s, _, rfl, rfl⟩ ⟨_, _, rfl, rfl⟩

theorem answersCode_init (s : State) : AnswersCode (errCode s .init) (execInit s) :=
  answersCode_ite ⟨s, _, rfl, rfl⟩ ⟨_, _, rfl, rfl⟩

theorem answersCode_final (s : State) : AnswersCode (errCode s .final) (execFinal s) :=
  answersCode_ite ⟨_, _, rfl, rfl⟩ ⟨s, _, rfl, rfl⟩

theorem answersCode_elmPush (s : State) : AnswersCode (errCode s .elmPush) (execElmPush s) :=
  answersCode_ite ⟨{ s.onElement with trace := s.onElement.trace ++ [s.onElement.forwardEvent] }, _, rfl, rfl⟩
    ⟨s, _, rfl, rfl⟩

theorem exec_answersCode (i : Instr) (s : State) : AnswersCode (errCode s i) (exec i s) := by
  cases i with
  | pktSet k speed ext time => exact answersCode_pktSet s k speed ext time
  | pktApp k byte => exact answersCode_pktApp s k byte
  | crc5 k off n => exact answersCode_crc5 s k off n
  | crc16 k off n => exact answersCode_crc16 s k off n
  | elmSet etype estruct time => exact answersCode_elmSet s etype estruct time
  | init => exact answersCode_init s
  | final => exact answersCode_final s
  | elmPush => exact answersCode_elmPush s
  | histRd h idx => exact answersCode_histRd s h idx
  | histWr h idx v => exact answersCode_histWr s h idx v
  | pktRb | pktPid | pktSubpid | pktAddr | pktEndp | pktFrame | pktHubaddr | pktHubport | pktSc | pktS | pktE | pktEt
  | pktCrc5 | pktCrc5c | pktCrc16 | pktCrc16c | elmEmpty | elmAddr | elmEndp => exact answersCode_respondOption s _
  | nop | pktClr | pktLen | pktTime | pktAttr | pktEmpty | pktType | pktErrs | pktValid | elmType | elmTime | elmSpeed
  | elmErrs | elmValid | decay | clear | histClr | cntRd | cntWr | devRd | devWr | devLast | statRd | orgRd =>
    exact ⟨_, _, rfl, rfl⟩

/-- The one answer of a command carries the code `errCode` gives. -/
theorem exec_answeredBy (i : Instr) (s : State) :
    ∃ t r, exec i s = .next t ∧ AnsweredBy s r t ∧ r.cerr = errCode s i := by
  obtain ⟨t, r, ht, hr⟩ := (exec_answered i s).exists_answeredBy
  obtain ⟨u, q, hu, hq⟩ := exec_answersCode i s
  rw [ht] at hu
  cases hu
  have hlast : q = r := List.singleton_inj.1 (List.append_inj_right' hr.responses rfl)
  exact ⟨_, r, ht, hr, hlast ▸ hq⟩

/-- The commands the phase does not bind are never refused for it. -/
theorem errCode_ne_phase (s : State) {i : Instr} (hinit : i ≠ .init) (hfinal : i ≠ .final)
    (hpush : i ≠ .elmPush) : errCode s i ≠ 4#3 := by
  cases i with
  | init => exact absurd rfl hinit
  | final => exact absurd rfl hfinal
  | elmPush => exact absurd rfl hpush
  | pktSet | elmSet | pktApp =>
    simp only [errCode]
    split <;> decide
  | histRd | histWr =>
    simp only [errCode]
    split <;> [decide; split <;> decide]
  | _ =>
    simp only [errCode]
    decide

end Sys2Proof.Machine

namespace Sys2Proof.Proofs

open Sys2Proof.Machine Sys2Proof.Stmt

/-- Settles O18: the three commands the phase binds row by row, every other by what it may change and its code. -/
theorem phaseMachine : Obligations.PhaseMachine := by
  refine ⟨fun s hphase => ?init, fun s hphase => exec_init_of_run hphase,
    fun s hphase => ⟨exec_final_of_not_run hphase, exec_elmPush_of_not_run hphase⟩,
    fun s hphase => exec_final_of_run hphase,
    fun s hphase => ⟨_, exec_elmPush_of_run hphase, forwarded_onElement s⟩, fun i s hinit hfinal hpush => ?others,
    fun s rest hin => ⟨_, step_of_reset hin, rfl⟩⟩
  case init => exact ⟨_, exec_init_of_not_run hphase, rfl, zeroed_answer_zeroAll s .run s.trace _⟩
  case others =>
    obtain ⟨t, r, ht, hr, hcode⟩ := exec_answeredBy i s
    obtain ⟨u, q, hu, rfl⟩ := effect_of_exec ht
    exact ⟨_, r, ht, hu.phase_eq hinit hfinal, hr.responses, hcode ▸ errCode_ne_phase s hinit hfinal hpush⟩

/-- Settles O21: an accepted push forwards the element as it was, and no other effect adds an event. -/
theorem onlyAcceptedPushesForward : Obligations.OnlyAcceptedPushesForward := by
  intro i s
  refine ⟨?push, fun hpush => ?others⟩
  case push =>
    rintro ⟨rfl, hphase⟩
    have hf := forwarded_onElement s
    exact ⟨_, exec_elmPush_of_run hphase, hf.trace, hf.responses⟩
  case others =>
    obtain ⟨t, r, ht, hr⟩ := (exec_answered i s).exists_answeredBy
    obtain ⟨u, q, hu, rfl⟩ := effect_of_exec ht
    have htrace : (u.answer q).trace = s.trace := hu.trace_eq hpush
    exact ⟨_, r, ht, htrace, hr.responses, hr.fwd_eq_false htrace⟩

/-- Settles O44: three rows of the opcode map, and the phases that accept and refuse the commands. -/
theorem lifecycleCommands : Obligations.LifecycleCommands :=
  ⟨coded_of_opcode rfl fmtN_eq fun _ => rfl, coded_of_opcode rfl fmtN_eq fun _ => rfl,
    coded_of_opcode rfl fmtN_eq fun _ => rfl, fun _ => rfl, fun _ hphase => exec_init_of_run hphase,
    fun s hphase => ⟨_, exec_init_of_not_run hphase, zeroed_answer_zeroAll s .run s.trace _, rfl,
      ⟨rfl, rfl, rfl, rfl⟩, rfl, rfl, rfl⟩,
    fun _ hphase => exec_final_of_run hphase, fun _ hphase => exec_final_of_not_run hphase⟩

end Sys2Proof.Proofs
end

section
/-! PROOFS. The frame-histogram accumulator (spec/44_frame_decomposer.md R200 to R218): what a pushed element does to
cells, counters and device table, by its type, and what `DECAY` and `CLEAR` do. -/

namespace Sys2Proof.Machine

open Sys2Proof.Stmt

/-! ### The handler of each element type (R200 to R206) -/

theorem State.onElement_of_startOfFrame {s : State} (h : s.etype = .startOfFrame) : s.onElement = s.onSof := by
  simp only [State.onElement, h]

theorem State.onElement_of_keepAlive {s : State} (h : s.etype = .keepAlive) : s.onElement = s.onKeepAlive := by
  simp only [State.onElement, h]

/-- The types without a handler (R206). -/
theorem State.onElement_of_no_handler {s : State} (h : s.etype ∈ [EType.invalidPacket, .lpmTransaction, .suspended,
    .powerChange, .highSpeedHandshake, .trigger]) : s.onElement = s := by
  unfold State.onElement
  cases hs : s.etype with
  | invalidPacket | lpmTransaction | suspended | powerChange | highSpeedHandshake | trigger => rfl
  | startOfFrame | keepAlive | transaction | splitTransaction | reset => simp [hs] at h

/-! ### Forwarding leaves the accumulator alone (R194) -/

theorem sameAccumulator_forward (s : State) : SameAccumulator s s.forward :=
  ⟨rfl, rfl, rfl, rfl, rfl, rfl, rfl, rfl, rfl⟩

@[simp] theorem State.hist_forward (s : State) (h : HistSel) : s.forward.hist h = s.hist h :=
  State.hist_congr rfl rfl rfl h

/-! ### Counters as numbers (R33, R208) -/

theorem toNat_cntAt_incCntIf (s : State) (b : Bool) (c d : BitVec 3) :
    ((s.incCntIf b c).cntAt d).toNat = ((s.cntAt d).toNat + if d.toNat = c.toNat ∧ b then 1 else 0) % 2 ^ 32 := by
  rw [State.cntAt_incCntIf, BitVec.toNat_add, apply_ite BitVec.toNat]
  simp only [BitVec.toNat_inj, and_comm, eq_comm (a := c)]
  rfl

theorem toNat_cntAt_incCnt (s : State) (c d : BitVec 3) :
    ((s.incCnt c).cntAt d).toNat = ((s.cntAt d).toNat + if d.toNat = c.toNat then 1 else 0) % 2 ^ 32 := by
  refine (toNat_cntAt_incCntIf s true c d).trans ?_
  simp only [and_true]

theorem pidIs_eq (s : State) (k : SlotId) (b : Byte) : pidIs s k b = decide ((s.slot k).pid = some b) := by
  rw [pidIs, Packet.pid, List.head?_eq_getElem?, beq_eq_decide]

theorem State.classify_eq_destination (s : State) : s.classify = destination s := by
  simp only [State.classify, destination, pidIs_eq, decide_eq_true_eq]

theorem pidIs_congr {s t : State} (h : t.slots = s.slots) (k : SlotId) (b : Byte) : pidIs t k b = pidIs s k b := by
  rw [pidIs, State.slot_congr h, pidIs]

theorem destination_congr {s t : State} (h : t.slots = s.slots) : destination t = destination s := by
  simp only [destination, pidIs_congr h]

theorem countOf_congr {s t : State} (h : t.slots = s.slots) (c : Nat) : countOf t c = countOf s c := by
  simp only [countOf, destination_congr h, pidIs_congr h]

/-- The category counter of a histogram is the one the first three summands of `countOf` name (R208). -/
theorem ite_eq_toNat_counter (h : HistSel) (c : Nat) : (if c = h.counter.toNat then 1 else 0) =
    (if c = 0 ∧ h = .inn then 1 else 0) + (if c = 1 ∧ h = .out then 1 else 0) +
      if c = 2 ∧ h = .nak then 1 else 0 := by
  cases h <;> simp [HistSel.counter]

theorem toNat_cntAt_count (s : State) (c : BitVec 3) :
    ((s.count (destination s)).cntAt c).toNat = ((s.cntAt c).toNat + countOf s c.toNat) % 2 ^ 32 := by
  simp only [State.count, toNat_cntAt_incCntIf, toNat_cntAt_incCnt, Nat.mod_add_mod, ite_eq_toNat_counter, ← pidIs_eq,
    countOf, Nat.add_assoc]
  rfl

/-! ### Bucketing several packets into one histogram (R210 to R213) -/

theorem Speed.scale_of_known {v : Speed} (h : v ≠ .unknown) : v.scale = some (frameTicks v, factor v) := by
  cases v with
  | unknown => exact absurd rfl h
  | low | full | high | lowPrefixed => rfl

/-- A bucketed packet adds one weight to the cells it covers. -/
theorem read_bucketInto (origin : Time) (p : Packet) {m : Memory} (hm : m.wf) (j : Nat) :
    (bucketInto origin p m).read j = if covers origin p j then paintCell (m.read j) else m.read j := by
  by_cases hskip : p.buf = [] ∨ p.speed = .unknown ∨ p.time.toNat < origin.toNat
  · have hcovers : covers origin p j = false := by
      rcases hskip with h | h | h <;> simp [covers, h]
    rw [hcovers, bucketInto_skip m (hskip.imp (by simp [Packet.len]) (Or.imp_left fun h => by rw [h]; rfl))]
    rfl
  · simp only [not_or, not_lt] at hskip
    obtain ⟨hbuf, hspeed, htime⟩ := hskip
    rw [bucketInto_paint m (by simpa [Packet.len] using hbuf) (Speed.scale_of_known hspeed) htime,
      Memory.read_paint _ _ _ hm]
    have hunskipped : covers origin p j = decide (position origin p ≤ j ∧
        j < position origin p + (1 + p.buf.length) * factor p.speed ∧ j < 7500) := by
      simp [covers, hbuf, hspeed, htime]
    simp only [hunskipped, decide_eq_true_eq, lt_min_iff]
    rfl

theorem coverCount_congr {s t : State} (hslots : t.slots = s.slots) (horigin : t.origin = s.origin) (ks : List SlotId)
    (j : Nat) : coverCount t ks j = coverCount s ks j := by
  simp only [coverCount, State.slot_congr hslots, horigin]

/-- The histogram `m` after the packets in slots `ks` are bucketed into it. -/
def State.bucketAllInto (s : State) (ks : List SlotId) (m : Memory) : Memory :=
  ks.foldl (fun m k => bucketInto s.origin (s.slot k) m) m

theorem State.wf_bucketAllInto (s : State) (ks : List SlotId) {m : Memory} (hm : m.wf) : (s.bucketAllInto ks m).wf := by
  induction ks generalizing m with
  | nil => exact hm
  | cons k ks ih => exact ih (wf_bucketInto s.origin (s.slot k) hm)

/-- Every covering packet adds one weight, saturating. -/
theorem State.toNat_read_bucketAllInto (s : State) (ks : List SlotId) {m : Memory} (hm : m.wf) (j : Nat) :
    ((s.bucketAllInto ks m).read j).toNat = min 255 ((m.read j).toNat + 10 * coverCount s ks j) := by
  induction ks generalizing m with
  | nil =>
    have := (m.read j).isLt
    simp only [State.bucketAllInto, List.foldl_nil, coverCount, List.countP_nil]
    omega
  | cons k ks ih =>
    have hk := ih (wf_bucketInto s.origin (s.slot k) hm)
    rw [read_bucketInto s.origin (s.slot k) hm] at hk
    rw [State.bucketAllInto, List.foldl_cons, ← State.bucketAllInto, hk, coverCount, coverCount, List.countP_cons]
    split
    · rw [toNat_paintCell]
      omega
    · rfl

/-! ### Device tracking on numbers (R209) -/

theorem tracked_none_or_zero (s : State) {a : Option Nat} (h : a = none ∨ a = some 0) : Tracked a s s := by
  have hnone : ∀ d : BitVec 7, ¬(a = some d.toNat ∧ d.toNat ≠ 0) := by
    rintro d ⟨rfl, hd⟩
    simp [hd] at h
  refine ⟨?_, fun d => ?_, fun d => ?_⟩
  · rcases h with rfl | rfl <;> rfl
  · rw [decide_eq_false (hnone d), Bool.or_false]
  · rw [if_neg (hnone d), Nat.add_zero, Nat.mod_eq_of_lt (s.devcntAt d).isLt]

theorem tracked_setDev (s : State) {x : BitVec 7} (hx : x ≠ 0#7) :
    Tracked (some x.toNat) s { s.setDev x true (s.devcntAt x + 1#32) with lastDev := x } := by
  have hpos : x.toNat ≠ 0 := fun h => hx (BitVec.eq_of_toNat_eq h)
  refine ⟨?last, fun d => (State.devseenAt_setDev s x d true (s.devcntAt x + 1#32)).trans ?seen,
    fun d => (congrArg BitVec.toNat (State.devcntAt_setDev s x d true (s.devcntAt x + 1#32))).trans ?count⟩
  case last =>
    obtain ⟨n, hn⟩ := Nat.exists_eq_succ_of_ne_zero hpos
    simp only [hn]
  case seen =>
    by_cases hd : x = d
    · subst hd
      simp [hpos]
    · simp [hd, mt BitVec.eq_of_toNat_eq hd]
  case count =>
    by_cases hd : x = d
    · subst hd
      simp [hpos, BitVec.toNat_add]
    · simp [hd, mt BitVec.eq_of_toNat_eq hd, Nat.mod_eq_of_lt (s.devcntAt d).isLt]

theorem tracked_track (s : State) (a : Option (BitVec 7)) : Tracked (a.map BitVec.toNat) s (s.track a) := by
  cases a with
  | none => exact tracked_none_or_zero s (.inl rfl)
  | some x =>
    by_cases hx : x = 0#7
    · subst hx
      exact tracked_none_or_zero s (.inr rfl)
    · rw [State.track_some s hx]
      exact tracked_setDev s hx

/-- Tracking reads and writes the last device and the device table only. -/
theorem tracked_congr {a : Option Nat} {s u t : State} (h : Tracked a u t) (hlast : u.lastDev = s.lastDev)
    (hcnt : u.devcnt = s.devcnt) (hseen : u.devseen = s.devseen) : Tracked a s t where
  last := by rw [h.last, hlast]
  seen d := by rw [h.seen, State.devseenAt, hseen, State.devseenAt]
  count d := by rw [h.count, State.devcntAt, hcnt, State.devcntAt]

/-! ### What a transaction does, by its packets and the address it tracks (R203, R204) -/

/-- The packets in slots `ks` are bucketed into the histogram of the classification, counted, and `a` is tracked. -/
def State.accumulate (s : State) (ks : List SlotId) (a : Option (BitVec 7)) : State :=
  ((s.setHist s.classify (s.bucketAllInto ks (s.hist s.classify))).count s.classify).track a

theorem State.onTransaction_eq_accumulate (s : State) :
    s.onTransaction = s.accumulate [.tok, .dat, .hsk] s.elmAddr := by
  simp [State.onTransaction, State.accumulate, State.bucket, State.bucketAllInto]

theorem State.onSplit_eq_accumulate (s : State) :
    s.onSplit = s.accumulate [.spl, .tok, .dat, .hsk] (s.slot .spl).hubaddr := by
  simp [State.onSplit, State.accumulate, State.bucket, State.bucketAllInto]

theorem State.onElement_of_transaction {s : State} (h : s.etype = .transaction) :
    s.onElement = s.accumulate [.tok, .dat, .hsk] (s.slot .tok).addr := by
  simp only [State.onElement, h, State.onTransaction_eq_accumulate, State.elmAddr, EType.hasToken, if_true]

theorem State.onElement_of_splitTransaction {s : State} (h : s.etype = .splitTransaction) :
    s.onElement = s.accumulate [.spl, .tok, .dat, .hsk] (s.slot .spl).hubaddr := by
  simp only [State.onElement, h, State.onSplit_eq_accumulate]

theorem accumulated_forward {ks : List SlotId} {a : Option Nat} {s t : State} (h : Accumulated ks a s t) :
    Accumulated ks a s t.forward where
  origin := h.origin
  hs := h.hs
  cells g j := (cell_congr (State.hist_forward t g) j).trans (h.cells g j)
  counts := h.counts
  device := ⟨h.device.last, h.device.seen, h.device.count⟩

theorem State.hist_accumulate (s : State) (ks : List SlotId) (a : Option (BitVec 7)) (h : HistSel) :
    (s.accumulate ks a).hist h = if h = destination s then s.bucketAllInto ks (s.hist h) else s.hist h := by
  rw [State.accumulate, State.hist_track, State.hist_count, State.classify_eq_destination]
  split
  case isTrue heq => rw [heq, State.hist_setHist_same]
  case isFalse hne => exact State.hist_setHist_ne s _ hne

theorem canonical_accumulate {s : State} (hs : Canonical s) (ks : List SlotId) (a : Option (BitVec 7)) :
    Canonical (s.accumulate ks a) := by
  intro h
  rw [State.hist_accumulate]
  split
  · exact s.wf_bucketAllInto ks (hs h)
  · exact hs h

theorem accumulated_accumulate {s : State} (hs : Canonical s) (ks : List SlotId) (a : Option (BitVec 7)) :
    Accumulated ks (a.map BitVec.toNat) s (s.accumulate ks a) where
  origin := by simp [State.accumulate]
  hs := by simp [State.accumulate]
  cells h j := by
    rw [cell, State.hist_accumulate]
    split
    · exact s.toNat_read_bucketAllInto ks (hs h) j
    · rfl
  counts c := by
    have hcount := toNat_cntAt_count (s.setHist s.classify (s.bucketAllInto ks (s.hist s.classify))) c
    rw [destination_congr (State.setHist_slots s _ _), countOf_congr (State.setHist_slots s _ _),
      ← s.classify_eq_destination] at hcount
    simpa only [State.cntAt, State.accumulate, State.track_cnt, State.setHist_cnt] using hcount
  device := tracked_congr (tracked_track _ a) (by simp) (by simp) (by simp)

/-- An accepted push of an element whose handler accumulates; the canonical form it keeps serves the next push. -/
theorem exists_push_accumulated {s : State} {ks : List SlotId} {a : Option (BitVec 7)} (hrun : s.phase = .run)
    (hs : Canonical s) (h : s.onElement = s.accumulate ks a) :
    ∃ t, exec .elmPush s = .next t ∧ Forwarded s t ∧ Accumulated ks (a.map BitVec.toNat) s t ∧ Canonical t := by
  refine ⟨_, exec_elmPush_of_run hrun, forwarded_onElement s, ?_, fun g => ?_⟩
  · rw [h]
    exact accumulated_forward (accumulated_accumulate hs ks a)
  · rw [h, State.hist_forward]
    exact canonical_accumulate hs ks a g

/-! ### Repeated pushes (R214) -/

theorem accumulatedTimes_zero (ks : List SlotId) (s : State) : AccumulatedTimes 0 ks s s where
  origin := rfl
  hs := rfl
  cells h j := by
    have : cell s h j < 256 := ((s.hist h).read j).isLt
    split <;> omega
  counts c := by
    have := (s.cntAt c).isLt
    omega

/-- One push before `n` more of the same element. -/
theorem accumulatedTimes_succ {n : Nat} {ks : List SlotId} {a : Option Nat} {s t u : State} (hslots : t.slots = s.slots)
    (hone : Accumulated ks a s t) (hmore : AccumulatedTimes n ks t u) : AccumulatedTimes (n + 1) ks s u := by
  refine ⟨hmore.origin.trans hone.origin, hmore.hs.trans hone.hs, fun h j => ?_, fun c => ?_⟩
  · rw [hmore.cells, hone.cells, destination_congr hslots, coverCount_congr hslots hone.origin]
    split
    · have : 10 * (n + 1) * coverCount s ks j = 10 * n * coverCount s ks j + 10 * coverCount s ks j := by ring
      omega
    · rfl
  · rw [hmore.counts, hone.counts, countOf_congr hslots, Nat.mod_add_mod]
    congr 1
    ring

/-- Elements whose push accumulates the packets in `ks` do so each time they are pushed. -/
theorem exists_pushes_accumulated {e : EType} {ks : List SlotId} {a : State → Option (BitVec 7)}
    (he : ∀ s : State, s.etype = e → s.onElement = s.accumulate ks (a s)) (n : Nat) {s : State} (hrun : s.phase = .run)
    (hs : Canonical s) (htype : s.etype = e) :
    ∃ t, execAll (List.replicate n .elmPush) s = .next t ∧ AccumulatedTimes n ks s t := by
  induction n generalizing s with
  | zero => exact ⟨s, rfl, accumulatedTimes_zero ks s⟩
  | succ n ih =>
    obtain ⟨t, hpush, hforwarded, hone, ht⟩ := exists_push_accumulated hrun hs (he s htype)
    obtain ⟨u, hpushes, hmore⟩ := ih (hforwarded.phase.trans hrun) ht (hforwarded.etype.trans htype)
    exact ⟨u, (execAll_cons hpush).trans hpushes, accumulatedTimes_succ hforwarded.slots hone hmore⟩

/-! ### Decay (R215, R216) -/

theorem exec_decay (s : State) : exec .decay s = .next (s.mapHists (Memory.mapCells decayCell)).ack := rfl

theorem toNat_decayCell_eq_decayed (c : Byte) : (decayCell c).toNat = decayed c.toNat := toNat_decayCell c

theorem monotone_decayed : Monotone decayed := by
  intro a b hab
  unfold decayed
  omega

theorem canonical_decay {s : State} (hs : Canonical s) :
    Canonical (s.mapHists (Memory.mapCells decayCell)).ack := by
  intro h
  rw [State.ack_eq, State.hist_answer, State.hist_mapHists]
  exact Memory.wf_mapCells decayCell (hs h)

theorem cell_decay {s : State} (hs : Canonical s) (h : HistSel) (j : Nat) :
    cell (s.mapHists (Memory.mapCells decayCell)).ack h j = decayed (cell s h j) := by
  rw [cell, State.ack_eq, State.hist_answer, State.hist_mapHists, Memory.read_mapCells decayCell_blank (hs h),
    toNat_decayCell_eq_decayed, cell]

/-- `n` decays of the state are `n` decays of every cell. -/
theorem exists_decays (n : Nat) {s : State} (hs : Canonical s) :
    ∃ t, execAll (List.replicate n .decay) s = .next t ∧ ∀ h j, cell t h j = decayed^[n] (cell s h j) := by
  induction n generalizing s with
  | zero => exact ⟨s, rfl, fun _ _ => rfl⟩
  | succ n ih =>
    obtain ⟨t, hrest, hcells⟩ := ih (canonical_decay hs)
    refine ⟨t, (execAll_cons (exec_decay s)).trans hrest, fun h j => ?_⟩
    rw [hcells, cell_decay hs, Function.iterate_succ_apply]

/-- The largest cell value takes forty steps to reach 0, and a smaller one no more. -/
theorem iterate_decayed_forty {c : Nat} (hc : c ≤ 255) : decayed^[40] c = 0 :=
  Nat.le_zero.1 ((monotone_decayed.iterate 40 hc).trans (by decide))

end Sys2Proof.Machine

namespace Sys2Proof.Proofs

open Sys2Proof.Machine Sys2Proof.Stmt

/-- Settles O45: the two handlers write origin and speed context, and one of them counter 5. -/
theorem pushOfFrameMarkers : Obligations.PushOfFrameMarkers := by
  intro s hrun
  refine ⟨fun htype => ⟨_, exec_elmPush_of_run hrun, forwarded_onElement s, ?sof⟩,
    fun htype => ⟨_, exec_elmPush_of_run hrun, forwarded_onElement s, ?keepAlive⟩⟩
  case sof =>
    have hhs : s.onElement.hs = decide (firstSpeed s [.spl] = .high) := State.onElement_hs_of_startOfFrame htype
    rw [State.onElement_of_startOfFrame htype] at hhs ⊢
    refine ⟨rfl, hhs, rfl, rfl, rfl, fun h j => cell_congr (State.hist_congr rfl rfl rfl h) j,
      fun c => (toNat_cntAt_incCnt _ 5#3 c).trans ?_⟩
    simp only [BitVec.toNat_inj]
    split
    · rfl
    · exact Nat.mod_eq_of_lt (s.cntAt c).isLt
  case keepAlive =>
    rw [State.onElement_of_keepAlive htype]
    exact ⟨rfl, rfl, rfl, rfl, rfl, rfl, fun h j => cell_congr (State.hist_congr rfl rfl rfl h) j⟩

/-- Settles O46, by the element types that zero and those without a handler. -/
theorem pushOfResetAndOthers : Obligations.PushOfResetAndOthers :=
  ⟨coded_of_opcode rfl fmtN_eq fun _ => rfl, fun s => ⟨exec_elmPush_of_not_run,
    fun hrun htype => ⟨_, exec_elmPush_of_run hrun, forwarded_onElement s, zeroed_forward_of_reset htype⟩,
    fun hrun htype => ⟨_, exec_elmPush_of_run hrun, forwarded_onElement s, by
      rw [State.onElement_of_no_handler htype]
      exact sameAccumulator_forward s⟩⟩⟩

/-- Settles O47: both handlers accumulate their packets and track their address. -/
theorem pushOfTransactions : Obligations.PushOfTransactions := by
  intro s hrun hs
  refine ⟨fun htype => ?transaction, fun htype => ?split⟩
  case transaction =>
    obtain ⟨t, hpush, hforwarded, hacc, -⟩ := exists_push_accumulated hrun hs (State.onElement_of_transaction htype)
    refine ⟨t, hpush, hforwarded, ?_⟩
    rwa [Packet.map_toNat_addr] at hacc
  case split =>
    obtain ⟨t, hpush, hforwarded, hacc, -⟩ :=
      exists_push_accumulated hrun hs (State.onElement_of_splitTransaction htype)
    refine ⟨t, hpush, hforwarded, ?_⟩
    rwa [Packet.map_toNat_hubaddr] at hacc

/-- Settles O48, by induction over the pushes: each leaves the element and the phase for the next. -/
theorem repeatedPushesSaturate : Obligations.RepeatedPushesSaturate := fun n _ hrun hs =>
  ⟨exists_pushes_accumulated (fun _ => State.onElement_of_transaction) n hrun hs,
    exists_pushes_accumulated (fun _ => State.onElement_of_splitTransaction) n hrun hs⟩

/-- Settles O49, cell by cell. -/
theorem decayReducesEveryCell : Obligations.DecayReducesEveryCell :=
  ⟨coded_of_opcode rfl fmtN_eq fun _ => rfl, fun s hs => ⟨_, exec_decay s, cell_decay hs, ⟨rfl, rfl, rfl, rfl⟩,
    rfl, rfl, rfl, rfl, rfl, rfl, rfl, rfl, rfl, rfl⟩⟩

/-- Settles O50: the runs of 40 and 39 commands are iterated decays of a number, which is monotone. -/
theorem fortyDecaysReachZero : Obligations.FortyDecaysReachZero := by
  refine ⟨fun a b hab => ?mono, fun c => ?value, fun c => ?fixed, by decide, fun s hs => ?forty,
    fun s h j hs hcell => ?thirtyNine⟩
  case mono =>
    rw [toNat_decayCell_eq_decayed, toNat_decayCell_eq_decayed]
    exact monotone_decayed hab
  case value =>
    rw [toNat_decayCell]
    split <;> omega
  case fixed =>
    rw [← BitVec.toNat_inj, toNat_decayCell, ← BitVec.toNat_inj, BitVec.toNat_ofNat]
    omega
  case forty =>
    obtain ⟨t, hrun, hcells⟩ := exists_decays 40 hs
    exact ⟨t, hrun, fun h j => (hcells h j).trans (iterate_decayed_forty (Nat.le_of_lt_succ (BitVec.isLt _)))⟩
  case thirtyNine =>
    obtain ⟨t, hrun, hcells⟩ := exists_decays 39 hs
    refine ⟨t, hrun, ?_⟩
    rw [hcells, hcell]
    decide

/-- Settles O51: what `zeroAll` leaves is zeroed, and the answer adds nothing to it. -/
theorem clearZeroesTheAccumulator : Obligations.ClearZeroesTheAccumulator :=
  ⟨coded_of_opcode rfl fmtN_eq fun _ => rfl, fun s => ⟨_, exec_clear s, zeroed_answer_zeroAll s s.phase s.trace _,
    ⟨rfl, rfl, rfl, rfl⟩, rfl, rfl, rfl, rfl⟩⟩

end Sys2Proof.Proofs
end

section
/-! PROOFS. The state transfer commands (spec/45_state_transfer.md R230 to R240): what each reads and writes, how long a
written value stays, and which writes commute. -/

namespace Sys2Proof.Machine

open Sys2Proof.Stmt

/-! ### Must-be-zero bits and write data (R71, R73) -/

theorem fmtH_eq (cw : Word) : fmtH cw = (cw.toNat &&& Format.h.mask.toNat % 2 ^ 24 == 0) := fld_eq_zero_eq cw 21 16

theorem fmtK_eq (cw : Word) : fmtK cw = (cw.toNat &&& Format.k.mask.toNat % 2 ^ 24 == 0) := fld_eq_zero_eq cw 23 3

theorem fmtD_eq (cw : Word) : fmtD cw = (cw.toNat &&& Format.d.mask.toNat % 2 ^ 24 == 0) := fld_eq_zero_eq cw 23 7

theorem histField_eq (c : Command) : c.histField = BitVec.ofNat 2 (fld c.cw 23 22) := extractLsb'_eq_ofNat_fld c.cw 22 1

theorem idxField_eq (c : Command) : c.idxField = BitVec.ofNat 16 (fld c.cw 15 0) := extractLsb'_eq_ofNat_fld c.cw 0 15

theorem cntField_eq (c : Command) : c.cntField = BitVec.ofNat 3 (fld c.cw 2 0) := extractLsb'_eq_ofNat_fld c.cw 0 2

theorem devField_eq (c : Command) : c.devField = BitVec.ofNat 7 (fld c.cw 6 0) := extractLsb'_eq_ofNat_fld c.cw 0 6

/-- The low bits of the write data. -/
theorem extractLsb'_zero_eq_ofNat_bits (d : Data) (w : Nat) :
    d.extractLsb' 0 (w + 1) = BitVec.ofNat (w + 1) (bits d.toNat w 0) := by
  refine BitVec.eq_of_toNat_eq ?_
  rw [BitVec.extractLsb'_toNat, BitVec.toNat_ofNat, bits, Nat.shiftRight_eq_div_pow, Nat.sub_zero, Nat.mod_mod]

theorem cellData_eq (c : Command) : c.cellData = BitVec.ofNat 8 (bits c.wdata.toNat 7 0) :=
  extractLsb'_zero_eq_ofNat_bits c.wdata 7

theorem countData_eq (c : Command) : c.countData = BitVec.ofNat 32 (bits c.wdata.toNat 31 0) :=
  extractLsb'_zero_eq_ofNat_bits c.wdata 31

theorem seenData_eq (c : Command) : c.seenData = (bits c.wdata.toNat 32 32 == 1) := by
  rw [Command.seenData, ← BitVec.testBit_toNat, Nat.testBit_eq_decide_div_mod_eq]
  rfl

/-! ### Reading and writing one element (R230 to R236) -/

theorem ofCode?_eq_selects : ∀ x : BitVec 2, HistSel.ofCode? x = selects x := by decide

theorem exec_histRd_of_range {x : BitVec 2} {h : HistSel} (hx : HistSel.ofCode? x = some h) {j : BitVec 16}
    (hj : 7500 ≤ j.toNat) (s : State) : exec (.histRd x j) s = .next (refuses s 3) := by
  simp only [exec, execHistRd, hx, if_pos (show Config.histLen ≤ j.toNat from hj)]
  rfl

theorem exec_histWr_of_range {x : BitVec 2} {h : HistSel} (hx : HistSel.ofCode? x = some h) {j : BitVec 16}
    (hj : 7500 ≤ j.toNat) (v : Byte) (s : State) : exec (.histWr x j v) s = .next (refuses s 3) := by
  simp only [exec, execHistWr, hx, if_pos (show Config.histLen ≤ j.toNat from hj)]
  rfl

theorem exec_cntRd (c : BitVec 3) (s : State) : exec (.cntRd c) s = .next (answers s (s.cntAt c).toNat) :=
  congrArg Host.Outcome.next (s.respond_eq_answers _)

theorem exec_cntWr (c : BitVec 3) (v : Word) (s : State) : exec (.cntWr c v) s = .next (s.setCnt c v).ack := rfl

theorem exec_devRd (a : BitVec 7) (s : State) : exec (.devRd a) s =
    .next (answers s ((if s.devseenAt a then 2 ^ 32 else 0) + (s.devcntAt a).toNat)) := by
  rw [exec, execDevRd, State.respond_eq_answers, toNat_ofBool_append]

theorem exec_devWr (a : BitVec 7) (b : Bool) (v : Word) (s : State) :
    exec (.devWr a b v) s = .next (s.setDev a b v).ack := rfl

theorem cell_answer (s : State) (r : Response) (h : HistSel) (j : Nat) : cell (s.answer r) h j = cell s h j :=
  cell_congr (State.hist_answer s r h) j

/-- `s` with `v` in cell `j` of histogram `h`. -/
def State.writeCell (s : State) (h : HistSel) (j : Nat) (v : Byte) : State := s.setHist h ((s.hist h).write j v)

theorem canonical_writeCell {s : State} (hs : Canonical s) (h : HistSel) (j : Nat) (v : Byte) :
    Canonical (s.writeCell h j v) :=
  State.forall_hist_setHist hs h (Memory.wf_write (hs h) j v)

theorem cell_writeCell {s : State} (hs : Canonical s) (h g : HistSel) (j n : Nat) (v : Byte) :
    cell (s.writeCell h j v) g n = if g = h ∧ n = j then v.toNat else cell s g n := by
  split
  case isTrue heq =>
    obtain ⟨rfl, rfl⟩ := heq
    rw [cell, State.writeCell, State.hist_setHist_same, Memory.read_write (hs g), if_pos rfl]
  case isFalse hne => exact cell_setHist_write_ne hs v fun heq => hne ⟨heq.2.symm, heq.1.symm⟩

theorem writeCell_ack_frame (s : State) (h : HistSel) (j : Nat) (v : Byte) :
    (s.writeCell h j v).ack = { answers s 0 with
      histIn := (s.writeCell h j v).histIn, histOut := (s.writeCell h j v).histOut,
      histNak := (s.writeCell h j v).histNak } := by
  cases h <;> rfl

/-! ### The status reads (R238) -/

theorem toNat_ofBool_append_phase (b : Bool) (p : Phase) :
    (BitVec.ofBool b ++ p.code).toNat = phaseCode p + if b then 4 else 0 := by
  cases b <;> cases p <;> rfl

/-! ### What stays through a list of commands (R240) -/

theorem canonical_congr {s t : State} (hs : Canonical s) (h : ∀ g, t.hist g = s.hist g) : Canonical t := fun g =>
  h g ▸ hs g

theorem canonical_answer {s : State} (hs : Canonical s) (r : Response) : Canonical (s.answer r) :=
  canonical_congr hs (State.hist_answer s r)

theorem canonical_of_nil {s : State} (h : ∀ g, s.hist g = []) : Canonical s := fun g => h g ▸ Memory.wf_nil

theorem canonical_onElement {s : State} (hs : Canonical s) : Canonical s.onElement := by
  cases he : s.etype with
  | startOfFrame =>
    rw [State.onElement_of_startOfFrame he]
    exact canonical_congr hs (State.hist_congr rfl rfl rfl)
  | keepAlive =>
    rw [State.onElement_of_keepAlive he]
    exact canonical_congr hs (State.hist_congr rfl rfl rfl)
  | transaction =>
    rw [State.onElement_of_transaction he]
    exact canonical_accumulate hs _ _
  | splitTransaction =>
    rw [State.onElement_of_splitTransaction he]
    exact canonical_accumulate hs _ _
  | reset =>
    rw [State.onElement_of_reset he]
    exact canonical_of_nil (State.hist_zeroAll s)
  | invalidPacket | lpmTransaction | suspended | powerChange | highSpeedHandshake | trigger =>
    rw [State.onElement_of_no_handler (by simp [he])]
    exact hs

/-- No command breaks the canonical form. -/
theorem Effect.canonical {s u : State} {i : Instr} (h : Effect s i u) (hs : Canonical s) : Canonical u := by
  cases h with
  | unchanged => exact hs
  | pktClr k | pktSet k | pktApp k => exact canonical_congr hs (State.hist_setSlot s k _)
  | elmSet | final | cntWr | devWr => exact canonical_congr hs (State.hist_congr rfl rfl rfl)
  | init => exact canonical_of_nil (State.hist_zeroAll s)
  | elmPush => exact canonical_congr (canonical_onElement hs) (State.hist_congr rfl rfl rfl)
  | decay => exact canonical_congr (canonical_decay hs) (State.hist_congr rfl rfl rfl)
  | clear => exact canonical_of_nil (State.hist_zeroAll s)
  | histWr x j v sel => exact canonical_writeCell hs sel j.toNat v
  | histClr => exact canonical_of_nil (State.hist_mapHists s _)

/-- What every command of the list keeps, the list keeps. -/
theorem execAll_keeps {P : Instr → Prop} {I : State → Prop}
    (hstep : ∀ {i s u}, P i → Effect s i u → I s → ∀ r, I (u.answer r)) (is : List Instr) (his : ∀ i ∈ is, P i)
    {s : State} (hs : I s) : ∃ t, execAll is s = .next t ∧ I t := by
  induction is generalizing s with
  | nil => exact ⟨s, rfl, hs⟩
  | cons i is ih =>
    obtain ⟨hi, his⟩ := List.forall_mem_cons.1 his
    obtain ⟨u, r, hu, hexec⟩ := exec_changes i s
    rw [execAll_cons hexec]
    exact ih his (hstep hi hu hs r)

theorem notZeroing_of_ne {i : Instr} (hpush : i ≠ .elmPush) (hinit : i ≠ .init) (hclear : i ≠ .clear) (s : State) :
    NotZeroing s i := ⟨hinit, hclear, fun h => absurd h hpush⟩

theorem Effect.sameDev {s u : State} {i : Instr} {a : BitVec 7} (h : Effect s i u) (hi : ¬RewritesDevice a i) :
    SameDev s u a := by
  simp only [RewritesDevice, not_or] at hi
  obtain ⟨hpush, hinit, hclear, hwr⟩ := hi
  exact (h.sameDev_writers (notZeroing_of_ne hpush hinit hclear s) a).resolve_left
    (not_or.2 ⟨fun h => hpush h.1, hwr⟩)

theorem Effect.cntAt_eq {s u : State} {i : Instr} {c : BitVec 3} (h : Effect s i u) (hi : ¬RewritesCounter c i) :
    u.cntAt c = s.cntAt c := by
  simp only [RewritesCounter, not_or] at hi
  obtain ⟨hpush, hinit, hclear, hwr⟩ := hi
  exact (h.cntAt_writers (notZeroing_of_ne hpush hinit hclear s) c).resolve_left (not_or.2 ⟨hpush, hwr⟩)

/-- No two selects name one histogram. -/
theorem HistSel.eq_of_ofCode?_eq_some : ∀ (x y : BitVec 2) (h : HistSel),
    HistSel.ofCode? x = some h → HistSel.ofCode? y = some h → x = y := by
  intro x y h
  cases h <;> revert x y <;> decide

theorem Effect.cell_eq {s u : State} {i : Instr} {x : BitVec 2} {sel : HistSel} {j : BitVec 16}
    (h : Effect s i u) (hi : ¬RewritesCell x j i) (hx : HistSel.ofCode? x = some sel) (hs : Canonical s) :
    cell u sel j.toNat = cell s sel j.toNat := by
  simp only [RewritesCell, not_or] at hi
  obtain ⟨hpush, hinit, hclear, hdecay, hhistClr, hwr⟩ := hi
  refine (h.cell_writers (notZeroing_of_ne hpush hinit hclear s) hs sel j.toNat).resolve_left ?_
  rintro (rfl | rfl | rfl | ⟨y, n, v, rfl, hn, hy⟩)
  · exact hpush rfl
  · exact hdecay rfl
  · exact hhistClr rfl
  · obtain rfl := BitVec.eq_of_toNat_eq hn
    obtain rfl := HistSel.eq_of_ofCode?_eq_some x y sel hx hy
    exact hwr ⟨v, rfl⟩

/-! ### Writes that commute (R240) -/

/-- On every state command `i` is acknowledged after doing `f`, which does not depend on the answers given. -/
structure Writes (i : Instr) (f : State → State) : Prop where
  exec   : ∀ s, exec i s = .next (f s).ack
  answer : ∀ s r, f (s.answer r) = (f s).answer r

theorem writes_devWr (a : BitVec 7) (b : Bool) (v : Word) : Writes (.devWr a b v) fun s => s.setDev a b v :=
  ⟨exec_devWr a b v, fun _ _ => rfl⟩

theorem writes_cntWr (c : BitVec 3) (v : Word) : Writes (.cntWr c v) fun s => s.setCnt c v :=
  ⟨exec_cntWr c v, fun _ _ => rfl⟩

theorem writes_histWr {x : BitVec 2} {h : HistSel} (hx : HistSel.ofCode? x = some h) {j : BitVec 16}
    (hj : j.toNat < 7500) (v : Byte) : Writes (.histWr x j v) fun s => s.writeCell h j.toNat v :=
  ⟨exec_histWr hx hj v, fun s r => by simp only [State.writeCell, State.hist_answer, State.setHist_answer]⟩

theorem Writes.comm {i j : Instr} {f g : State → State} {s : State} (hi : Writes i f) (hj : Writes j g)
    (h : g (f s) = f (g s)) : execAll [i, j] s = execAll [j, i] s := by
  rw [execAll_cons (hi.exec s), execAll_cons (hj.exec s), execAll_cons (hj.exec _), execAll_cons (hi.exec _),
    State.ack_eq (f s), State.ack_eq (g s), hj.answer, hi.answer, h]

theorem State.setDev_comm (s : State) {a b : BitVec 7} (h : a ≠ b) (x y : Bool) (v w : Word) :
    (s.setDev a x v).setDev b y w = (s.setDev b y w).setDev a x v := by
  have hne : a.toNat ≠ b.toNat := fun heq => h (BitVec.eq_of_toNat_eq heq)
  simp only [State.setDev, Vector.set_comm _ _ hne]

theorem State.setCnt_comm (s : State) {c d : BitVec 3} (h : c ≠ d) (v w : Word) :
    (s.setCnt c v).setCnt d w = (s.setCnt d w).setCnt c v := by
  have hne : c.toNat ≠ d.toNat := fun heq => h (BitVec.eq_of_toNat_eq heq)
  simp only [State.setCnt, Vector.set_comm _ _ hne]

theorem State.writeCell_setDev (s : State) (h : HistSel) (j : Nat) (w : Byte) (a : BitVec 7) (b : Bool) (v : Word) :
    (s.setDev a b v).writeCell h j w = (s.writeCell h j w).setDev a b v := by
  cases h <;> rfl

theorem State.writeCell_setCnt (s : State) (h : HistSel) (j : Nat) (w : Byte) (c : BitVec 3) (v : Word) :
    (s.setCnt c v).writeCell h j w = (s.writeCell h j w).setCnt c v := by
  cases h <;> rfl

theorem State.setHist_comm (s : State) {g h : HistSel} (hne : g ≠ h) (m n : Memory) :
    (s.setHist g m).setHist h n = (s.setHist h n).setHist g m := by
  match g, h, hne with
  | .inn, .inn, hne | .out, .out, hne | .nak, .nak, hne => exact absurd rfl hne
  | .inn, .out, _ | .inn, .nak, _ | .out, .inn, _ | .out, .nak, _ | .nak, .inn, _ | .nak, .out, _ => rfl

theorem State.writeCell_comm {s : State} (hs : Canonical s) {g h : HistSel} {i j : Nat} (hne : g ≠ h ∨ i ≠ j)
    (v w : Byte) : (s.writeCell g i v).writeCell h j w = (s.writeCell h j w).writeCell g i v := by
  by_cases hgh : g = h
  · subst hgh
    have hij : i ≠ j := hne.resolve_left fun hne => hne rfl
    simp only [State.writeCell, State.hist_setHist_same, State.setHist_setHist, Memory.write_comm (hs g) hij]
  · simp only [State.writeCell, State.hist_setHist_ne s _ hgh, State.hist_setHist_ne s _ (Ne.symm hgh),
      State.setHist_comm s hgh]

/-! ### A value written is read back (R240) -/

theorem devRd_after_devWr {is : List Instr} {a : BitVec 7} (b : Bool) (v : Word) (his : ∀ i ∈ is, ¬RewritesDevice a i)
    (s : State) : ∃ t, execAll (.devWr a b v :: is) s = .next t ∧
      exec (.devRd a) t = .next (answers t ((if b then 2 ^ 32 else 0) + v.toNat)) := by
  obtain ⟨t, ht, hcnt, hseen⟩ := execAll_keeps (I := fun t => SameDev (s.setDev a b v) t a)
    (fun hi hu hs _ => hs.trans (hu.sameDev hi)) is his (s := (s.setDev a b v).ack) ⟨rfl, rfl⟩
  rw [State.devcntAt_setDev, if_pos rfl] at hcnt
  rw [State.devseenAt_setDev, if_pos rfl] at hseen
  exact ⟨t, (execAll_cons (exec_devWr a b v s)).trans ht, by rw [exec_devRd, hseen, hcnt]⟩

theorem cntRd_after_cntWr {is : List Instr} {c : BitVec 3} (v : Word) (his : ∀ i ∈ is, ¬RewritesCounter c i)
    (s : State) : ∃ t, execAll (.cntWr c v :: is) s = .next t ∧ exec (.cntRd c) t = .next (answers t v.toNat) := by
  obtain ⟨t, ht, hcnt⟩ := execAll_keeps (I := fun t => t.cntAt c = v)
    (fun hi hu hs _ => (hu.cntAt_eq hi).trans hs) is his (s := (s.setCnt c v).ack)
    ((State.cntAt_setCnt s c c v).trans (if_pos rfl))
  exact ⟨t, (execAll_cons (exec_cntWr c v s)).trans ht, by rw [exec_cntRd, hcnt]⟩

theorem histRd_after_histWr {is : List Instr} {x : BitVec 2} {h : HistSel} (hx : HistSel.ofCode? x = some h)
    {j : BitVec 16} (hj : j.toNat < 7500) (v : Byte) (his : ∀ i ∈ is, ¬RewritesCell x j i) {s : State}
    (hs : Canonical s) : ∃ t, execAll (.histWr x j v :: is) s = .next t ∧
      exec (.histRd x j) t = .next (answers t v.toNat) := by
  have hstep : ∀ {i u w}, ¬RewritesCell x j i → Effect u i w → (Canonical u ∧ cell u h j.toNat = v.toNat) →
      ∀ r, Canonical (w.answer r) ∧ cell (w.answer r) h j.toNat = v.toNat := by
    rintro i u w hi hw ⟨hu, hv⟩ r
    exact ⟨canonical_answer (hw.canonical hu) r, by rw [cell_answer, hw.cell_eq hi hx hu, hv]⟩
  obtain ⟨t, ht, -, hcell⟩ := execAll_keeps hstep is his (s := (s.writeCell h j.toNat v).ack)
    ⟨canonical_answer (canonical_writeCell hs h j.toNat v) _,
      by rw [State.ack_eq, cell_answer, cell_writeCell hs, if_pos ⟨rfl, rfl⟩]⟩
  refine ⟨t, (execAll_cons (exec_histWr hx hj v s)).trans ht, ?_⟩
  rw [exec_histRd hx hj, ← hcell, cell]

end Sys2Proof.Machine

namespace Sys2Proof.Proofs

open Sys2Proof.Machine Sys2Proof.Stmt

/-- Settles O52, by the select: the reserved one comes before the range, a legal one names the histogram that is read or
written. -/
theorem histogramReadWriteClear : Obligations.HistogramReadWriteClear := by
  refine ⟨coded_of_opcode rfl fmtH_eq fun c => ?_, coded_of_opcode rfl fmtH_eq fun c => ?_,
    coded_of_opcode rfl fmtN_eq fun _ => rfl, fun _ _ _ => ⟨rfl, rfl⟩, fun x h j v s hx => ?_, fun s => ?_⟩
  · rw [histField_eq, idxField_eq]
  · rw [histField_eq, idxField_eq, cellData_eq]
  · rw [← ofCode?_eq_selects] at hx
    refine ⟨fun hj => ⟨exec_histRd_of_range hx hj s, exec_histWr_of_range hx hj v s⟩, fun hj => exec_histRd hx hj s,
      fun hj hs => ⟨_, exec_histWr hx hj v s, fun g n => ?_, writeCell_ack_frame s h j.toNat v⟩⟩
    exact (cell_answer _ _ g n).trans (cell_writeCell hs h g j.toNat n v)
  · exact ⟨_, exec_histClr s, fun h j => cell_of_nil (by simp) j, rfl⟩

/-- Settles O53: the array of counters is set at the index named and read at any. -/
theorem counterReadWrite : Obligations.CounterReadWrite := by
  refine ⟨coded_of_opcode rfl fmtK_eq fun c => ?_, coded_of_opcode rfl fmtK_eq fun c => ?_,
    fun c v s => ⟨exec_cntRd c s, _, exec_cntWr c v s, rfl, fun d => ?_⟩⟩
  · rw [cntField_eq]
  · rw [cntField_eq, countData_eq]
  · exact (State.cntAt_setCnt s c d v).trans (if_congr eq_comm rfl rfl)

/-- Settles O54: both arrays of the device table are set at the address named and read at any. -/
theorem deviceReadWrite : Obligations.DeviceReadWrite := by
  refine ⟨coded_of_opcode rfl fmtD_eq fun c => ?_, coded_of_opcode rfl fmtD_eq fun c => ?_,
    fun a b v s => ⟨exec_devRd a s, _, exec_devWr a b v s, rfl, fun d => ?_, fun d => ?_⟩⟩
  · rw [devField_eq]
  · rw [devField_eq, seenData_eq, countData_eq]
  · exact (State.devcntAt_setDev s a d b v).trans (if_congr eq_comm rfl rfl)
  · exact (State.devseenAt_setDev s a d b v).trans (if_congr eq_comm rfl rfl)

/-- Settles O55: each read answers one register, `STAT.RD` the speed context above the phase code. -/
theorem statusReads : Obligations.StatusReads := by
  refine ⟨coded_of_opcode rfl fmtN_eq fun _ => rfl, coded_of_opcode rfl fmtN_eq fun _ => rfl,
    coded_of_opcode rfl fmtN_eq fun _ => rfl, fun s => ⟨?_, ?_, ?_⟩⟩
  · rw [exec, execDevLast, State.respond_eq_answers]
  · rw [exec, execStatRd, State.respond_eq_answers, toNat_ofBool_append_phase]
  · rw [exec, execOrgRd, State.respond_eq_answers]

/-- Settles O56: the commands between write and read keep the element, and each pair of writes commutes as state
updates. -/
theorem writeThenReadRoundTrip : Obligations.WriteThenReadRoundTrip := by
  intro is s hs
  have hsel : ∀ x : BitVec 2, x ≠ 3#2 → ∃ h, HistSel.ofCode? x = some h := fun x hx =>
    Option.isSome_iff_exists.1 (HistSel.isSome_ofCode? x hx)
  refine ⟨fun a b v his => devRd_after_devWr b v his s, fun c v his => cntRd_after_cntWr v his s,
    fun x j v hx hj his => ?readBack,
    fun a b x v y w hne => (writes_devWr a x v).comm (writes_devWr b y w) (s.setDev_comm hne x y v w),
    fun c d v w hne => (writes_cntWr c v).comm (writes_cntWr d w) (s.setCnt_comm hne v w),
    fun a b v c w => (writes_devWr a b v).comm (writes_cntWr c w) rfl, fun a b v x j w hx hj => ?device,
    fun c v x j w hx hj => ?counter, fun x y m n v w hx hy hm hn hne => ?cells⟩
  case readBack =>
    obtain ⟨h, hx⟩ := hsel x hx
    exact histRd_after_histWr hx hj v his hs
  case device =>
    obtain ⟨h, hx⟩ := hsel x hx
    exact (writes_devWr a b v).comm (writes_histWr hx hj w) (s.writeCell_setDev h j.toNat w a b v)
  case counter =>
    obtain ⟨h, hx⟩ := hsel x hx
    exact (writes_cntWr c v).comm (writes_histWr hx hj w) (s.writeCell_setCnt h j.toNat w c v)
  case cells =>
    obtain ⟨g, hg⟩ := hsel x hx
    obtain ⟨h, hh⟩ := hsel y hy
    refine (writes_histWr hg hm v).comm (writes_histWr hh hn w) (State.writeCell_comm hs ?_ v w)
    exact hne.imp (fun hxy hgh => hxy (HistSel.eq_of_ofCode?_eq_some x y g hg (hgh ▸ hh)))
      fun hmn heq => hmn (BitVec.eq_of_toNat_eq heq)

end Sys2Proof.Proofs
end

section
/-! PROOFS. The command errors (spec/60_exceptions.md R251 to R253): a refused command leaves nothing but its code, and
the code is that of the first cause in the order of the priority rule. -/

namespace Sys2Proof.Machine

open Sys2Proof.Stmt

/-! ### A refused command changes nothing (R251) -/

/-- The one answer that a command error adds is the only shape of answer with a code. -/
theorem Answered.eq_cmdError {s t : State} {r : Response} (h : Answered s (.next t))
    (hr : t.responses = s.responses ++ [r]) (hcode : r.cerr ≠ 0#3) :
    ∃ e : CmdError, t = s.cmdError e ∧ r = ⟨0#64, false, e.code, false⟩ := by
  have hlast : ∀ {q : Response}, t.responses = s.responses ++ [q] → q = r := fun hq =>
    List.singleton_inj.1 (List.append_cancel_left (hq.symm.trans hr))
  have hcoded : ∀ {q : Response}, t.responses = s.responses ++ [q] → q.cerr ≠ 0#3 := fun hq => hlast hq ▸ hcode
  cases h with
  | refused e => exact ⟨e, rfl, (hlast rfl).symm⟩
  | responded => exact (hcoded rfl rfl).elim
  | unknown => exact (hcoded rfl rfl).elim
  | acknowledged hu => exact (hcoded (congrArg (· ++ [_]) hu.responses) rfl).elim
  | forwarded => exact (hcoded (forwarded_onElement s).responses rfl).elim

/-! ### The causes of the table (R252, R253) -/

/-- What R252 leaves for a word that decodes: the causes that depend on the index and the state. -/
def rangeOrPhase (s : State) (cw : Word) : Nat :=
  if (fld cw 31 24 = 0x70 ∨ fld cw 31 24 = 0x71) ∧ 7500 ≤ fld cw 15 0 then 3
  else if fld cw 31 24 = 0x12 ∧ (s.slot (slotOf cw)).buf.length = 2047 then 3
  else if fld cw 31 24 = 0x60 ∧ s.phase = .run then 4
  else if (fld cw 31 24 = 0x61 ∨ fld cw 31 24 = 0x62) ∧ s.phase ≠ .run then 4
  else 0

theorem errorOf_of_rowOf_none (s : State) {c : Command} (h : rowOf c = none) : errorOf s c.cw = 1 := by
  have hassigned : assigned c.cw = false := by rw [assigned_eq_isSome_rowOf, h, Option.isSome_none]
  simp [errorOf, hassigned]

theorem errorOf_of_rowOf_some (s : State) {c : Command} {r : OpRow} (h : rowOf c = some r) :
    errorOf s c.cw = if mbzSet c.cw || reservedEnum c.cw then 2 else rangeOrPhase s c.cw := by
  have hassigned : assigned c.cw = true := by rw [assigned_eq_isSome_rowOf, h, Option.isSome_some]
  simp [errorOf, hassigned, rangeOrPhase]

/-! ### The causes a meaning finds, by opcode (R252) -/

section

variable (s : State) {cw : Word}

theorem rangeOrPhase_of_not_mem (hop : fld cw 31 24 ∉ [0x12, 0x60, 0x61, 0x62, 0x70, 0x71]) :
    rangeOrPhase s cw = 0 := by
  simp only [List.mem_cons, List.not_mem_nil, or_false, not_or] at hop
  obtain ⟨h12, h60, h61, h62, h70, h71⟩ := hop
  simp [rangeOrPhase, h12, h60, h61, h62, h70, h71]

theorem rangeOrPhase_of_hist (hop : fld cw 31 24 = 0x70 ∨ fld cw 31 24 = 0x71) :
    rangeOrPhase s cw = if 7500 ≤ fld cw 15 0 then 3 else 0 := by
  rcases hop with hop | hop <;> simp [rangeOrPhase, hop]

theorem rangeOrPhase_of_pktApp (hop : fld cw 31 24 = 0x12) :
    rangeOrPhase s cw = if (s.slot (slotOf cw)).buf.length = 2047 then 3 else 0 := by
  simp [rangeOrPhase, hop]

theorem rangeOrPhase_of_init (hop : fld cw 31 24 = 0x60) : rangeOrPhase s cw = if s.phase = .run then 4 else 0 := by
  simp [rangeOrPhase, hop]

theorem rangeOrPhase_of_final_or_push (hop : fld cw 31 24 = 0x61 ∨ fld cw 31 24 = 0x62) :
    rangeOrPhase s cw = if s.phase = .run then 0 else 4 := by
  rcases hop with hop | hop <;> simp [rangeOrPhase, hop]

end

/-! ### The code of every well-formed command -/

theorem Speed.isSome_ofCode?_of_legal :
    ∀ v : BitVec 3, speedCodeLegal v = true → (Speed.ofCode? v).isSome = true := by decide

theorem EType.isSome_ofCode?_of_legal :
    ∀ v : BitVec 4, etypeCodeLegal v = true → (EType.ofCode? v).isSome = true := by decide

theorem HistSel.isSome_ofCode?_of_legal :
    ∀ v : BitVec 2, histCodeLegal v = true → (HistSel.ofCode? v).isSome = true := by decide

theorem Command.toNat_idxField (c : Command) : c.idxField.toNat = fld c.cw 15 0 := by
  simp [Command.idxField, fld, bits]

theorem fld_opcode_of_op {c : Command} {op : BitVec 8} (h : c.op = op) : fld c.cw 31 24 = op.toNat := by
  rw [← c.toNat_op, h]

/-- A command that is never refused, with an opcode to which R252 gives no cause of its own. -/
theorem rangeOrPhase_encode_of_no_cause {s : State} {i : Instr} {op : BitVec 8} (hop : (encode i).op = op)
    (hno : op.toNat ∉ [0x12, 0x60, 0x61, 0x62, 0x70, 0x71]) (hcode : errCode s i = 0#3) :
    rangeOrPhase s (encode i).cw = (errCode s i).toNat := by
  rw [hcode]
  exact rangeOrPhase_of_not_mem s (by rwa [fld_opcode_of_op hop])

/-- A histogram command with a legal select is refused for its index alone. -/
theorem rangeOrPhase_encode_of_hist {s : State} {i : Instr} {h : BitVec 2} {idx : BitVec 16}
    (hop : (encode i).op = 0x70#8 ∨ (encode i).op = 0x71#8) (hidx : (encode i).idxField = idx)
    (hlegal : histCodeLegal h = true) (hcode : errCode s i = errCode s (.histRd h idx)) :
    rangeOrPhase s (encode i).cw = (errCode s i).toNat := by
  obtain ⟨sel, hsel⟩ := Option.isSome_iff_exists.1 (HistSel.isSome_ofCode?_of_legal h hlegal)
  rw [rangeOrPhase_of_hist s (hop.imp fld_opcode_of_op fld_opcode_of_op), ← Command.toNat_idxField, hidx, hcode]
  simp only [errCode, hsel, apply_ite BitVec.toNat]
  rfl

theorem rangeOrPhase_encode_pktApp (s : State) (k : SlotId) (byte : Byte) :
    rangeOrPhase s (encode (.pktApp k byte)).cw = (errCode s (.pktApp k byte)).toNat := by
  have hslot : slotOf (encode (.pktApp k byte)).cw = k := by
    rw [← slotField_eq_slotOf]
    exact slotField_packA _ _ _ _
  rw [rangeOrPhase_of_pktApp s (fld_opcode_of_op (op_packA _ _ _ _)), hslot, errCode, apply_ite BitVec.toNat]
  rfl

theorem rangeOrPhase_encode_init (s : State) : rangeOrPhase s (encode .init).cw = (errCode s .init).toNat := by
  rw [rangeOrPhase_of_init s (fld_opcode_of_op (op_packN _ _)), errCode, apply_ite BitVec.toNat]
  rfl

theorem rangeOrPhase_encode_final (s : State) : rangeOrPhase s (encode .final).cw = (errCode s .final).toNat := by
  rw [rangeOrPhase_of_final_or_push s (.inl (fld_opcode_of_op (op_packN _ _))), errCode, apply_ite BitVec.toNat]
  rfl

theorem rangeOrPhase_encode_elmPush (s : State) : rangeOrPhase s (encode .elmPush).cw = (errCode s .elmPush).toNat := by
  rw [rangeOrPhase_of_final_or_push s (.inr (fld_opcode_of_op (op_packN _ _))), errCode, apply_ite BitVec.toNat]
  rfl

/-- The table read off a command's word gives the code its meaning answers with. -/
theorem rangeOrPhase_encode (s : State) {i : Instr} (hi : i.wellFormed = true) :
    rangeOrPhase s (encode i).cw = (errCode s i).toNat := by
  cases i with
  | pktApp k byte => exact rangeOrPhase_encode_pktApp s k byte
  | init => exact rangeOrPhase_encode_init s
  | final => exact rangeOrPhase_encode_final s
  | elmPush => exact rangeOrPhase_encode_elmPush s
  | histRd h idx => exact rangeOrPhase_encode_of_hist (.inl (op_packH _ _ _ _)) (idxField_packH _ _ _ _) hi rfl
  | histWr h idx v => exact rangeOrPhase_encode_of_hist (.inr (op_packH _ _ _ _)) (idxField_packH _ _ _ _) hi rfl
  | pktSet k speed ext time =>
    exact rangeOrPhase_encode_of_no_cause (op_packP _ _ _ _ _) (by decide)
      (if_pos (Speed.isSome_ofCode?_of_legal speed hi))
  | elmSet etype estruct time =>
    exact rangeOrPhase_encode_of_no_cause (op_packE _ _ _ _) (by decide)
      (if_pos (EType.isSome_ofCode?_of_legal etype hi))
  | nop | elmType | elmTime | elmEmpty | elmAddr | elmEndp | elmSpeed | elmErrs | elmValid | decay | clear | histClr
  | devLast | statRd | orgRd => exact rangeOrPhase_encode_of_no_cause (op_packN _ _) (by decide) rfl
  | pktClr | pktLen | pktTime | pktAttr | pktEmpty | pktPid | pktSubpid | pktType | pktAddr | pktEndp | pktFrame
  | pktHubaddr | pktHubport | pktSc | pktS | pktE | pktEt | pktCrc5 | pktCrc5c | pktCrc16 | pktCrc16c | pktErrs
  | pktValid => exact rangeOrPhase_encode_of_no_cause (op_packS _ _ _) (by decide) rfl
  | pktRb => exact rangeOrPhase_encode_of_no_cause (op_packO _ _ _ _) (by decide) rfl
  | crc5 | crc16 => exact rangeOrPhase_encode_of_no_cause (op_packR _ _ _ _ _) (by decide) rfl
  | cntRd | cntWr => exact rangeOrPhase_encode_of_no_cause (op_packK _ _ _) (by decide) rfl
  | devRd | devWr => exact rangeOrPhase_encode_of_no_cause (op_packD _ _ _) (by decide) rfl

/-- What a row reads from a word with no reserved field is answered with the code the table gives the word. -/
theorem rangeOrPhase_eq_errCode_read (s : State) {c : Command} {r : OpRow} (h : rowOf c = some r)
    (hlegal : ¬(mbzSet c.cw || reservedEnum c.cw) = true) : rangeOrPhase s c.cw = (errCode s (r.read c)).toNat := by
  obtain ⟨hwf, henc⟩ := encode_read_of_not_reserved h (Bool.eq_false_of_not_eq_true hlegal)
  rw [← rangeOrPhase_encode s hwf, henc]

/-- The answer to a word with an assigned opcode, with the code of R252. -/
theorem step_answers_errorOf {s : State} {c : Command} {rest : List HostEvent} {r : OpRow}
    (hin : s.inputs = .command c :: rest) (hrow : rowOf c = some r) :
    ∃ t q, step s = .next t ∧ t.responses = s.responses ++ [q] ∧ q.cerr.toNat = errorOf s c.cw := by
  rw [step_of_rowOf hin hrow, errorOf_of_rowOf_some s hrow]
  split
  case isTrue => exact ⟨_, _, rfl, rfl, rfl⟩
  case isFalse hlegal =>
    obtain ⟨t, q, ht, hq, hcode⟩ := exec_answeredBy (r.read c) (taken s rest)
    refine ⟨t, q, ht, hq.responses, ?_⟩
    rw [hcode]
    exact (rangeOrPhase_eq_errCode_read (taken s rest) hrow hlegal).symm

end Sys2Proof.Machine

namespace Sys2Proof.Proofs

open Sys2Proof.Machine Sys2Proof.Stmt

/-- Settles O9: of the five shapes of an answer only the command error has a code, and it keeps the state. -/
theorem refusedCommandsChangeNothing : Obligations.RefusedCommandsChangeNothing := by
  intro s t c rest r hin hstep hr hcode
  have hanswered := step_answered hin
  rw [hstep] at hanswered
  obtain ⟨e, rfl, rfl⟩ := hanswered.eq_cmdError hr hcode
  exact ⟨rfl, rfl, rfl, rfl⟩

/-- Settles O10, by whether the opcode selects a row of the opcode map. -/
theorem errorCodeIsTheFirstCause : Obligations.ErrorCodeIsTheFirstCause := by
  intro s cw wdata rest hin
  cases hrow : rowOf ⟨cw, wdata⟩ with
  | none =>
    exact ⟨_, _, step_of_decode_error hin (decode_of_rowOf_none hrow), rfl, (errorOf_of_rowOf_none s hrow).symm⟩
  | some r => exact step_answers_errorOf hin hrow

end Sys2Proof.Proofs
end

section
/-! PROOFS. What survives what (spec/70_reset_and_hazards.md R275): the slots, the element header and the accumulator
each change only under the commands that write them, and the forward trace only grows. -/

namespace Sys2Proof.Machine

open Sys2Proof.Stmt

/-- Only `PKT.CLR`, `PKT.SET` and `PKT.APP` change a slot. -/
theorem Effect.slots_eq {s u : State} {i : Instr} (h : Effect s i u) (hclr : ∀ k, i ≠ .pktClr k)
    (hset : ∀ k v x w, i ≠ .pktSet k v x w) (happ : ∀ k b, i ≠ .pktApp k b) : u.slots = s.slots := by
  cases h with
  | pktClr k => exact absurd rfl (hclr k)
  | pktSet k speed ext time => exact absurd rfl (hset k speed ext time)
  | pktApp k byte => exact absurd rfl (happ k byte)
  | elmPush => exact (sameOutsideAccumulator_onElement s).slots
  | histWr _ _ _ sel => exact State.setHist_slots s sel _
  | unchanged | elmSet | init | final | decay | clear | histClr | cntWr | devWr => rfl

/-- Only `ELM.SET` changes the element header. -/
theorem Effect.header_eq {s u : State} {i : Instr} (h : Effect s i u) (hset : ∀ e x w, i ≠ .elmSet e x w) :
    u.etype = s.etype ∧ u.etime = s.etime ∧ u.estruct = s.estruct := by
  cases h with
  | elmSet etype estruct time => exact absurd rfl (hset etype estruct time)
  | elmPush =>
    have hsame := sameOutsideAccumulator_onElement s
    exact ⟨hsame.etype, hsame.etime, hsame.estruct⟩
  | pktClr k | pktSet k | pktApp k =>
    exact ⟨State.setSlot_etype s k _, State.setSlot_etime s k _, State.setSlot_estruct s k _⟩
  | histWr _ _ _ sel => exact ⟨State.setHist_etype s sel _, State.setHist_etime s sel _, State.setHist_estruct s sel _⟩
  | unchanged | init | final | decay | clear | histClr | cntWr | devWr => exact ⟨rfl, rfl, rfl⟩

/-- Command `i` does not write the accumulator: it is none of `INIT`, `ELM.PUSH`, `DECAY`, `CLEAR` and the
state-transfer writes (R275). -/
structure SparesAccumulator (i : Instr) : Prop where
  init    : i ≠ .init
  elmPush : i ≠ .elmPush
  decay   : i ≠ .decay
  clear   : i ≠ .clear
  histWr  : ∀ h j v, i ≠ .histWr h j v
  histClr : i ≠ .histClr
  cntWr   : ∀ c v, i ≠ .cntWr c v
  devWr   : ∀ a b c, i ≠ .devWr a b c

theorem sameAccumulator_setSlot (s : State) (k : SlotId) (p : Packet) : SameAccumulator s (s.setSlot k p) := by
  constructor <;> simp

theorem sameAccumulator_answer {s u : State} (h : SameAccumulator s u) (r : Response) :
    SameAccumulator s (u.answer r) :=
  ⟨h.origin, h.hs, h.lastDev, h.cnt, h.devcnt, h.devseen, h.cells⟩

/-- A command that does not write the accumulator changes a slot, the header or the phase, or nothing. -/
theorem Effect.sameAccumulator {s u : State} {i : Instr} (h : Effect s i u) (hi : SparesAccumulator i) :
    SameAccumulator s u := by
  cases h with
  | init => exact absurd rfl hi.init
  | elmPush => exact absurd rfl hi.elmPush
  | decay => exact absurd rfl hi.decay
  | clear => exact absurd rfl hi.clear
  | histWr x j v => exact absurd rfl (hi.histWr x j v)
  | histClr => exact absurd rfl hi.histClr
  | cntWr c v => exact absurd rfl (hi.cntWr c v)
  | devWr a seen count => exact absurd rfl (hi.devWr a seen count)
  | pktClr k | pktSet k | pktApp k => exact sameAccumulator_setSlot s k _
  | unchanged | elmSet | final => exact ⟨rfl, rfl, rfl, rfl, rfl, rfl, rfl, rfl, rfl⟩

/-- No command retracts a forward event. -/
theorem exists_trace_append_of_exec {i : Instr} {s t : State} (h : exec i s = .next t) :
    ∃ ev, t.trace = s.trace ++ ev := by
  obtain ⟨t', r, ht', hr⟩ := (exec_answered i s).exists_answeredBy
  rw [h] at ht'
  cases ht'
  exact ⟨_, hr.trace⟩

end Sys2Proof.Machine

namespace Sys2Proof.Proofs

open Sys2Proof.Machine Sys2Proof.Stmt

/-- Settles O17: what the command's `Effect` leaves, the answer leaves too; the events are those of `AnsweredBy`. -/
theorem slotsAndHeaderSurvive : Obligations.SlotsAndHeaderSurvive := by
  intro i s t hexec
  have htrace := exists_trace_append_of_exec hexec
  obtain ⟨u, r, hu, rfl⟩ := effect_of_exec hexec
  exact ⟨hu.slots_eq, hu.header_eq,
    fun hinit hpush hdecay hclear hhistWr hhistClr hcntWr hdevWr =>
      sameAccumulator_answer (hu.sameAccumulator ⟨hinit, hpush, hdecay, hclear, hhistWr, hhistClr, hcntWr, hdevWr⟩) r,
    htrace⟩

end Sys2Proof.Proofs
end
